-- ==== Sys2Proof/Word.lean ====
section
/-! DEFINITION. The two word widths of the block (spec/00_scope.md R11): the byte, and the 16-bit word of the
CRC register, the length field, the address field and the checksum field. -/

namespace Sys2Proof

/-- R11: "A byte is 8 bits, an unsigned integer 0 to 255." -/
abbrev Byte := BitVec 8

/-- R11, R25: a `u16`; the CRC register, a length, an address, a checksum. -/
abbrev Word := BitVec 16

end Sys2Proof
end

