-- ==== Sys2Proof/Config.lean ====
section
/-! DEFINITION. The hard-wired constants of the block (spec/00_scope.md R8) and the two parameters the source
leaves open (R9). The spec leaves no VALUE free, so there is no opaque constant here. -/

namespace Sys2Proof

/-- R9: the two open parameters. `none` is "unbounded", the normative value of both. -/
structure Config where
  /-- `BUF_CAP`, the capacity of the reassembly buffer in bytes (R9, R24; decision D4). -/
  bufCap : Option Nat
  /-- `MAX_CHUNK`, the largest chunk one FEED or RX accepts (R9; decision D5). -/
  maxChunk : Option Nat
  deriving DecidableEq, Repr

namespace Config

/-- R9, R24: both parameters at their normative value. The machine (`Machine.exec`) uses this one. -/
def normative : Config := { bufCap := none, maxChunk := none }

/-- R24: "A model that takes a finite `BUF_CAP` argument must take `BUF_CAP >= 65539`". -/
def legal (c : Config) : Bool :=
  match c.bufCap with
  | none => true
  | some cap => decide (65539 ≤ cap)

/-- `HDR0`, first header byte. -/
def hdr0 : Byte := 0x52#8
/-- `HDR1`, second header byte. -/
def hdr1 : Byte := 0x42#8
/-- The header: two single bytes in this order, not an integer (R41). -/
def header : List Byte := [hdr0, hdr1]
/-- `LEN_BIAS`: total frame length is the length field plus 4. -/
def lenBias : Nat := 4
/-- `OVERHEAD`: command, address and checksum bytes counted by the length field beside the data. -/
def overhead : Nat := 5
/-- `MIN_SCAN`: FEED scans, and PARSE goes past Truncated, only at this many bytes. -/
def minScan : Nat := 4
/-- `CRC_POLY`, the feedback constant of the right-shifting form. -/
def crcPoly : Word := 0xA001#16
/-- `CRC_INIT`, the register at the start of every checksum (90_conflicts.md C1: the value, not the label). -/
def crcInit : Word := 0xFFFF#16
/-- `CMD_READ`. -/
def cmdRead : Byte := 0x01#8
/-- `CMD_WRITE`. -/
def cmdWrite : Byte := 0x02#8
/-- `ADDR_LATEST`, "latest data short". -/
def addrLatest : Word := 0x5022#16
/-- `ADDR_LED`, "LED". -/
def addrLed : Word := 0x5111#16
/-- `ADDR_FLASH`, "flash memory status". -/
def addrFlash : Word := 0x5403#16
/-- `DISPLAY_RULE`: "display_rule u16 fixed to `0x0001`". -/
def displayRule : Word := 0x0001#16

end Config

end Sys2Proof
end

