-- ==== Sys2Proof/Machine/Bytes.lean ====
section
/-! DEFINITION. Byte order, slices and sign conversion (spec/00_scope.md R12, R13; spec/20_memory.md R41;
spec/41_le_datapath.md R110, R111, R119). Everything multi-byte in the block goes through these. -/

namespace Sys2Proof.Machine

/-- R110: `from_le(S) = S[0] + 256 * S[1] + ... + 256^(n-1) * S[n-1]`. -/
def fromLe : List Byte → Nat
  | [] => 0
  | b :: bs => b.toNat + 256 * fromLe bs

/-- R111: `le_n(v) = [ v[7:0], v[15:8], ..., v[8n-1 : 8n-8] ]`, least significant byte first. -/
def le : Nat → Nat → List Byte
  | 0, _ => []
  | n + 1, v => BitVec.ofNat 8 v :: le n (v / 256)

/-- `le_2` of a `u16` (R70, R117). -/
def leWord (w : Word) : List Byte := le 2 w.toNat

/-- The `u16` whose image is the two bytes `lo`, `hi` (R70: `B[o] + 256 * B[o+1]`). -/
def wordOfLe (lo hi : Byte) : Word := BitVec.ofNat 16 (fromLe [lo, hi])

/-- R12: `B[i:j]`, the bytes at offsets `i` to `j - 1`. -/
def slice (bs : List Byte) (i j : Nat) : List Byte := (bs.take j).drop i

/-- R13, R119: `sext_N(v)`, an unsigned `n`-bit value read as two's complement. -/
def sext (n u : Nat) : Int := if 2 ^ (n - 1) ≤ u then (u : Int) - 2 ^ n else u

end Sys2Proof.Machine
end

