-- ==== Sys2Proof/Machine/Checksum.lean ====
section
/-! DEFINITION. The checksum functions of the CRC unit (spec/40_crc.md R90 to R92, R104). -/

namespace Sys2Proof.Machine

/-- R90: `crc_step(r) = if r[0] = 1 then (r >> 1) ^ 0xA001 else (r >> 1)`. -/
def crcStep (r : Word) : Word :=
  if r.getLsbD 0 then (r >>> 1) ^^^ Config.crcPoly else r >>> 1

/-- `n` bit steps. -/
def crcSteps : Nat → Word → Word
  | 0, r => r
  | n + 1, r => crcSteps n (crcStep r)

/-- R91: `crc_byte(r, b) = crc_step^8( r ^ zext_16(b) )`. -/
def crcByte (r : Word) (b : Byte) : Word := crcSteps 8 (r ^^^ b.setWidth 16)

/-- The register after absorbing the bytes in order, from any register (R101). -/
def crcFrom (r : Word) (bs : List Byte) : Word := bs.foldl crcByte r

/-- R92: `crc16(B) = fold( crc_byte, 0xFFFF, B )`; no final XOR, no reflection, no byte swap. -/
def crc16 (bs : List Byte) : Word := crcFrom Config.crcInit bs

end Sys2Proof.Machine
end

