-- ==== Sys2Proof/Machine/Frames.lean ====
section
/-! DEFINITION. Frame assembly (spec/42_frame_build.md R130) and the checks on what a builder is given
(R134; spec/30_encoding.md R66). Pure functions on byte sequences. -/

namespace Sys2Proof.Machine

/-- R130: `M`, everything before the checksum: header, length, command, address, data. -/
def frameBody (cmd : Byte) (addr : Word) (data : List Byte) : List Byte :=
  Config.header ++ le 2 (data.length + Config.overhead) ++ [cmd] ++ leWord addr ++ data

/-- R130, R99: a body followed by its checksum, "appended little-endian as the trailing two bytes". -/
def sealFrame (body : List Byte) : List Byte := body ++ leWord (crc16 body)

/-- R131: the body of the "read latest data" request. -/
def rdLatestBody : List Byte := frameBody Config.cmdRead Config.addrLatest []

/-- R133: the body of the "read flash status" request. -/
def rdFlashBody : List Byte := frameBody Config.cmdRead Config.addrFlash []

/-- R132: the body of the "set LED" request; display_rule is fixed, the channels follow in the order red, green,
blue. -/
def setLedBody (red green blue : Byte) : List Byte :=
  frameBody Config.cmdWrite Config.addrLed (leWord Config.displayRule ++ [red, green, blue])

/-- R134: the channel fits its 8-bit port. -/
def channelOk (v : Nat) : Bool := decide (v < 256)

/-- R66: the two bytes at offsets 12 and 13 are the checksum of offsets 0 to 11, low byte first. -/
def setLedChecksumOk (red green blue crcLo crcHi : Byte) : Bool :=
  leWord (crc16 (setLedBody red green blue)) == [crcLo, crcHi]

end Sys2Proof.Machine
end

