-- ==== Sys2Proof/Syntax.lean ====
section
/-! DEFINITION. What the host presents to the block (`Request`, spec/30_encoding.md R76) and the instruction it
stands for (`Instr`): one constructor per row of spec/opcode_table.json, the eighteen operations of R75 and the
six frame rows of R65 to R69 and R72. -/

namespace Sys2Proof

/-- R76: operands are "passed as typed values: a `u8`, an offset (a non-negative integer), or a byte sequence with
its length"; PACK.U16 adds the `u16` (R117). `nat` also carries the LED channels, wider than their 8-bit ports, so
that the caller contract violation of R134 can be presented, and refused (log entry 7). -/
inductive Operand where
  | u8 (v : Byte)
  | u16 (v : Word)
  | nat (n : Nat)
  | bytes (bs : List Byte)
  deriving DecidableEq, Repr

/-- What the host presents. R76: "an 8-bit operation code followed by the operands of the table, passed as typed
values"; no binary packing exists. The two frame forms present a row of the table that is a frame, as its bytes,
byte 0 first: FRAME.OUT (R65 to R67) and FRAME.IN (R68, R69, R72); see log entries 1 and 4. -/
inductive Request where
  | op (code : Byte) (operands : List Operand)
  | frameOut (bytes : List Byte)
  | frameIn (bytes : List Byte)
  deriving DecidableEq, Repr

/-- The eighteen operations of R75, by name. -/
inductive OpCode where
  | crcInit | crcByte | crcRead | crcSum | crcVerify
  | unpkU8 | unpkU16 | unpkI16 | unpkI32 | packU8 | packU16
  | bldRdlatest | bldSetled | bldRdflash
  | parse
  | feed | rx | syncReset
  deriving DecidableEq, Repr

/-- One constructor per row of spec/opcode_table.json. -/
inductive Instr where
  /-- CRC.INIT (R93) -/
  | crcInit
  /-- CRC.BYTE `b` (R94) -/
  | crcByte (b : Byte)
  /-- CRC.READ (R95) -/
  | crcRead
  /-- CRC.SUM `B` (R96) -/
  | crcSum (bs : List Byte)
  /-- CRC.VERIFY `B`, `len(B) >= 2` (R97) -/
  | crcVerify (bs : List Byte)
  /-- UNPK.U8 `B, off` (R112) -/
  | unpkU8 (bs : List Byte) (off : Nat)
  /-- UNPK.U16 `B, off` (R113) -/
  | unpkU16 (bs : List Byte) (off : Nat)
  /-- UNPK.I16 `B, off` (R114) -/
  | unpkI16 (bs : List Byte) (off : Nat)
  /-- UNPK.I32 `B, off` (R115) -/
  | unpkI32 (bs : List Byte) (off : Nat)
  /-- PACK.U8 `v` (R116) -/
  | packU8 (v : Byte)
  /-- PACK.U16 `v` (R117) -/
  | packU16 (v : Word)
  /-- BLD.RDLATEST (R131) -/
  | bldRdlatest
  /-- BLD.SETLED `red, green, blue` (R132); the operand type is wider than 8 bits (R134) -/
  | bldSetled (red green blue : Nat)
  /-- BLD.RDFLASH (R133) -/
  | bldRdflash
  /-- PARSE `B` (R140) -/
  | parse (bs : List Byte)
  /-- FEED `chunk` (R170) -/
  | feed (chunk : List Byte)
  /-- RX `chunk` (R180) -/
  | rx (chunk : List Byte)
  /-- SYNC.RESET (R181) -/
  | syncReset
  /-- REQ.RDLATEST, the nine-byte frame of R65 -/
  | reqRdlatest
  /-- REQ.SETLED, the fourteen-byte frame of R66: the three channel bytes at offsets 9 to 11 and the two checksum
  bytes at 12 (low) and 13 (high) -/
  | reqSetled (red green blue crcLo crcHi : Byte)
  /-- REQ.RDFLASH, the nine-byte frame of R67 -/
  | reqRdflash
  /-- RSP.LATEST (R68): `52 42`, length, command, `22 50`, and every byte after offset 6 -/
  | rspLatest (length : Word) (command : Byte) (rest : List Byte)
  /-- RSP.LED (R69): `52 42`, length, command, `11 51`, and every byte after offset 6 -/
  | rspLed (length : Word) (command : Byte) (rest : List Byte)
  /-- RSP.FLASH (R69): `52 42`, length, command, `03 54`, and every byte after offset 6 -/
  | rspFlash (length : Word) (command : Byte) (rest : List Byte)
  deriving DecidableEq, Repr

/-- The mnemonic of an instruction's row in spec/opcode_table.json. -/
def Instr.mnemonic : Instr → String
  | .crcInit => "CRC.INIT"
  | .crcByte _ => "CRC.BYTE"
  | .crcRead => "CRC.READ"
  | .crcSum _ => "CRC.SUM"
  | .crcVerify _ => "CRC.VERIFY"
  | .unpkU8 _ _ => "UNPK.U8"
  | .unpkU16 _ _ => "UNPK.U16"
  | .unpkI16 _ _ => "UNPK.I16"
  | .unpkI32 _ _ => "UNPK.I32"
  | .packU8 _ => "PACK.U8"
  | .packU16 _ => "PACK.U16"
  | .bldRdlatest => "BLD.RDLATEST"
  | .bldSetled _ _ _ => "BLD.SETLED"
  | .bldRdflash => "BLD.RDFLASH"
  | .parse _ => "PARSE"
  | .feed _ => "FEED"
  | .rx _ => "RX"
  | .syncReset => "SYNC.RESET"
  | .reqRdlatest => "REQ.RDLATEST"
  | .reqSetled _ _ _ _ _ => "REQ.SETLED"
  | .reqRdflash => "REQ.RDFLASH"
  | .rspLatest _ _ _ => "RSP.LATEST"
  | .rspLed _ _ _ => "RSP.LED"
  | .rspFlash _ _ _ => "RSP.FLASH"

end Sys2Proof
end

