-- ==== Sys2Proof/WellFormed.lean ====
section
/-! DEFINITION. The checks an instruction must meet to have a meaning (spec/40_crc.md R97, spec/42_frame_build.md
R134, spec/30_encoding.md R66). Every other operand combination is legal. -/

namespace Sys2Proof

/-- The well-formedness check of each instruction. -/
def Instr.wf : Instr → Bool
  | .crcInit => true
  | .crcByte _ => true
  | .crcRead => true
  | .crcSum _ => true
  | .crcVerify bs => decide (2 ≤ bs.length)
  | .unpkU8 _ _ => true
  | .unpkU16 _ _ => true
  | .unpkI16 _ _ => true
  | .unpkI32 _ _ => true
  | .packU8 _ => true
  | .packU16 _ => true
  | .bldRdlatest => true
  | .bldSetled r g b => Machine.channelOk r && Machine.channelOk g && Machine.channelOk b
  | .bldRdflash => true
  | .parse _ => true
  | .feed _ => true
  | .rx _ => true
  | .syncReset => true
  | .reqRdlatest => true
  | .reqSetled r g b cl ch => Machine.setLedChecksumOk r g b cl ch
  | .reqRdflash => true
  | .rspLatest _ _ _ => true
  | .rspLed _ _ _ => true
  | .rspFlash _ _ _ => true

end Sys2Proof
end

