-- ==== Sys2Proof/Decode.lean ====
section
/-! DEFINITION. Decoding a request of the host (spec/30_encoding.md R72, R75 to R77) and, after it, the encoder.
`decode` is total on every request and rejects by name; reserved codes and byte strings that are no frame row
never fall through to a neighbour. -/

namespace Sys2Proof

open Machine

/-- Why a request stands for no instruction. -/
inductive DecodeError where
  /-- R77: the operation code is not in the table of R75. -/
  | unassignedCode (code : Byte)
  /-- The code is assigned and the operands are not those of its row in R75. -/
  | wrongOperands (code : Byte)
  /-- The bytes are none of the three request frames of R65 to R67. -/
  | notARequestFrame
  /-- The first seven bytes match none of the three response kinds of R72. -/
  | notAResponseFrame
  deriving DecidableEq, Repr

/-! ### The operation codes of R75 -/

/-- The code column of R75. -/
def OpCode.code : OpCode → Byte
  | .crcInit => 0x01#8
  | .crcByte => 0x02#8
  | .crcRead => 0x03#8
  | .crcSum => 0x04#8
  | .crcVerify => 0x05#8
  | .unpkU8 => 0x10#8
  | .unpkU16 => 0x11#8
  | .unpkI16 => 0x12#8
  | .unpkI32 => 0x13#8
  | .packU8 => 0x18#8
  | .packU16 => 0x19#8
  | .bldRdlatest => 0x20#8
  | .bldSetled => 0x21#8
  | .bldRdflash => 0x22#8
  | .parse => 0x30#8
  | .feed => 0x40#8
  | .rx => 0x41#8
  | .syncReset => 0x4F#8

/-- Every operation, in the order of R75. -/
def OpCode.all : List OpCode :=
  [.crcInit, .crcByte, .crcRead, .crcSum, .crcVerify, .unpkU8, .unpkU16, .unpkI16, .unpkI32, .packU8, .packU16,
   .bldRdlatest, .bldSetled, .bldRdflash, .parse, .feed, .rx, .syncReset]

/-- The operation an 8-bit code selects: the row whose match equals it under the mask `0xFF` (R76). -/
def OpCode.ofByte (c : Byte) : Option OpCode := OpCode.all.find? (fun o => o.code == c)

/-- The operands column of R75: an operation with the operands of its row, and nothing else. -/
def decodeOperands : OpCode → List Operand → Option Instr
  | .crcInit, [] => some .crcInit
  | .crcByte, [.u8 b] => some (.crcByte b)
  | .crcRead, [] => some .crcRead
  | .crcSum, [.bytes bs] => some (.crcSum bs)
  | .crcVerify, [.bytes bs] => some (.crcVerify bs)
  | .unpkU8, [.bytes bs, .nat off] => some (.unpkU8 bs off)
  | .unpkU16, [.bytes bs, .nat off] => some (.unpkU16 bs off)
  | .unpkI16, [.bytes bs, .nat off] => some (.unpkI16 bs off)
  | .unpkI32, [.bytes bs, .nat off] => some (.unpkI32 bs off)
  | .packU8, [.u8 v] => some (.packU8 v)
  | .packU16, [.u16 v] => some (.packU16 v)
  | .bldRdlatest, [] => some .bldRdlatest
  | .bldSetled, [.nat r, .nat g, .nat b] => some (.bldSetled r g b)
  | .bldRdflash, [] => some .bldRdflash
  | .parse, [.bytes bs] => some (.parse bs)
  | .feed, [.bytes bs] => some (.feed bs)
  | .rx, [.bytes bs] => some (.rx bs)
  | .syncReset, [] => some .syncReset
  | _, _ => none

/-! ### The frame rows (R65 to R69, R72) -/

/-- R65: REQ.RDLATEST. -/
def reqRdlatestBytes : List Byte :=
  [0x52#8, 0x42#8, 0x05#8, 0x00#8, 0x01#8, 0x22#8, 0x50#8, 0xE2#8, 0xBB#8]

/-- R67: REQ.RDFLASH. -/
def reqRdflashBytes : List Byte :=
  [0x52#8, 0x42#8, 0x05#8, 0x00#8, 0x01#8, 0x03#8, 0x54#8, 0xFB#8, 0x28#8]

/-- R66: the nine fixed bytes that open every REQ.SETLED frame. -/
def reqSetledPrefix : List Byte :=
  [0x52#8, 0x42#8, 0x0A#8, 0x00#8, 0x02#8, 0x11#8, 0x51#8, 0x01#8, 0x00#8]

/-- A byte string read against the three FRAME.OUT patterns. -/
def decodeFrameOut (bs : List Byte) : Except DecodeError Instr :=
  if bs = reqRdlatestBytes then .ok .reqRdlatest
  else if bs = reqRdflashBytes then .ok .reqRdflash
  else if bs.take 9 = reqSetledPrefix then
    match bs.drop 9 with
    | [r, g, b, cl, ch] => .ok (.reqSetled r g b cl ch)
    | _ => .error .notARequestFrame
  else .error .notARequestFrame

/-- A byte string read against the three FRAME.IN rows: match and mask over the first seven bytes (R72). The mask
covers the header and the address; length and command do not select. -/
def decodeFrameIn (bs : List Byte) : Except DecodeError Instr :=
  match bs with
  | h0 :: h1 :: l0 :: l1 :: cmd :: a0 :: a1 :: rest =>
    if [h0, h1] = [0x52#8, 0x42#8] then
      if [a0, a1] = [0x22#8, 0x50#8] then .ok (.rspLatest (wordOfLe l0 l1) cmd rest)
      else if [a0, a1] = [0x11#8, 0x51#8] then .ok (.rspLed (wordOfLe l0 l1) cmd rest)
      else if [a0, a1] = [0x03#8, 0x54#8] then .ok (.rspFlash (wordOfLe l0 l1) cmd rest)
      else .error .notAResponseFrame
    else .error .notAResponseFrame
  | _ => .error .notAResponseFrame

/-- The decoder, total on every request. -/
def decode : Request → Except DecodeError Instr
  | .op code operands =>
    match OpCode.ofByte code with
    | none => .error (.unassignedCode code)
    | some o =>
      match decodeOperands o operands with
      | some i => .ok i
      | none => .error (.wrongOperands code)
  | .frameOut bs => decodeFrameOut bs
  | .frameIn bs => decodeFrameIn bs

/-! ### The encoder, from the same tables -/

/-- The request of an operation: its code and the operands of its row. -/
def OpCode.request (o : OpCode) (operands : List Operand) : Request := .op o.code operands

/-- The bytes of a response frame: header, length, command, address bytes, the rest (R60). -/
def responseBytes (length : Word) (command a0 a1 : Byte) (rest : List Byte) : List Byte :=
  [0x52#8, 0x42#8] ++ leWord length ++ [command, a0, a1] ++ rest

/-- The request that presents an instruction. -/
def encode : Instr → Request
  | .crcInit => OpCode.crcInit.request []
  | .crcByte b => OpCode.crcByte.request [.u8 b]
  | .crcRead => OpCode.crcRead.request []
  | .crcSum bs => OpCode.crcSum.request [.bytes bs]
  | .crcVerify bs => OpCode.crcVerify.request [.bytes bs]
  | .unpkU8 bs off => OpCode.unpkU8.request [.bytes bs, .nat off]
  | .unpkU16 bs off => OpCode.unpkU16.request [.bytes bs, .nat off]
  | .unpkI16 bs off => OpCode.unpkI16.request [.bytes bs, .nat off]
  | .unpkI32 bs off => OpCode.unpkI32.request [.bytes bs, .nat off]
  | .packU8 v => OpCode.packU8.request [.u8 v]
  | .packU16 v => OpCode.packU16.request [.u16 v]
  | .bldRdlatest => OpCode.bldRdlatest.request []
  | .bldSetled r g b => OpCode.bldSetled.request [.nat r, .nat g, .nat b]
  | .bldRdflash => OpCode.bldRdflash.request []
  | .parse bs => OpCode.parse.request [.bytes bs]
  | .feed bs => OpCode.feed.request [.bytes bs]
  | .rx bs => OpCode.rx.request [.bytes bs]
  | .syncReset => OpCode.syncReset.request []
  | .reqRdlatest => .frameOut reqRdlatestBytes
  | .reqSetled r g b cl ch => .frameOut (reqSetledPrefix ++ [r, g, b, cl, ch])
  | .reqRdflash => .frameOut reqRdflashBytes
  | .rspLatest n c rest => .frameIn (responseBytes n c 0x22#8 0x50#8 rest)
  | .rspLed n c rest => .frameIn (responseBytes n c 0x11#8 0x51#8 rest)
  | .rspFlash n c rest => .frameIn (responseBytes n c 0x03#8 0x54#8 rest)

/-! ### The opcode table as the host words it (log entry 10) -/

/-- The operands of an operation at zero: no bits set, and four zero bytes where the row takes a byte sequence. -/
def OpCode.zeroOperands : OpCode → List Operand
  | .crcInit | .crcRead | .bldRdlatest | .bldRdflash | .syncReset => []
  | .crcByte | .packU8 => [.u8 0]
  | .packU16 => [.u16 0]
  | .crcSum | .crcVerify | .parse | .feed | .rx => [.bytes (List.replicate 4 0)]
  | .unpkU8 | .unpkU16 | .unpkI16 | .unpkI32 => [.bytes (List.replicate 4 0), .nat 0]
  | .bldSetled => [.nat 0, .nat 0, .nat 0]

/-- A frame's bytes as a request: 56 bits are the first seven bytes of a response, anything else a request frame. -/
def frameRequest (nbits : Nat) (bs : List Byte) : Request := if nbits = 56 then .frameIn bs else .frameOut bs

/-- The bytes are those of a frame row. -/
def isFrameRow (nbits : Nat) (bs : List Byte) : Bool :=
  match decode (frameRequest nbits bs) with
  | .ok _ => true
  | .error _ => false

/-- DESIGN CHOICE (log entry 10). The bytes of a frame given as a number of `nbits` bits: R61 numbers frame bits with
byte 0 at the number's low end, R14 writes byte 0 first, so at its high end, and the spec does not say which of the two a
number means. Byte 0 is the low byte where that reading is a frame row, and the high byte otherwise. This settles the
number that has the header `52 42` at both ends too (a REQ.SETLED frame whose checksum bytes are `42 52`): the reading
that is a row is taken. No number is a row in both readings (`decodeFrameOut_one_reading`, `decodeFrameIn_one_reading`),
and one that is a row in neither is refused. -/
def frameBytesOfNumber (nbits w : Nat) : List Byte :=
  let low := le (nbits / 8) w
  if isFrameRow nbits low then low else low.reverse

/-- The request that a word of the opcode table stands for: 8 bits are an operation code (operands at zero),
anything longer a frame. -/
def tableRequest (nbits w : Nat) : Request :=
  if nbits ≤ 8 then
    let code : Byte := BitVec.ofNat 8 w
    match OpCode.ofByte code with
    | some o => o.request o.zeroOperands
    | none => .op code []
  else frameRequest nbits (frameBytesOfNumber nbits w)

/-- The instruction the decoder reads from a word of the opcode table; none where it refuses. -/
def decodeTableWord (nbits w : Nat) : Option Instr :=
  match decode (tableRequest nbits w) with
  | .ok i => some i
  | .error _ => none

end Sys2Proof
end

