-- ==== Sys2Proof/Machine/State.lean ====
section
/-! DEFINITION. The state of one block instance (spec/10_state.md R20), the shapes of the results an operation
hands to the host (spec/43_frame_parse.md R143, spec/60_exceptions.md R200), and the reasons a step can stop. -/

namespace Sys2Proof.Machine

/-! ### Reasons to stop -/

/-- FieldOutOfRange of R201, the spec's one fault: "it is never a value, it names the read that failed". -/
inductive Fault where
  /-- R118: the read of `n` bytes at `off` would pass the end of its byte sequence. Raised by the four UNPK
  operations, and by PARSE and RX through the reads of the dispatch (R160). `exec` RECORDS it in the result of the
  operation and goes on, because the state after it is given and the next operation may be any (R206, R209, R16
  "recorded error"; log entry 5); `stepStrict` of Safety.lean stops with it. Safe: no value is made up. -/
  | fieldOutOfRange (off n : Nat)
  deriving DecidableEq, Repr

/-- R16: "Refused: the block gives an operand combination no meaning and a model must not step." Every refusal is
safe: it claims nothing of what the block would do. -/
inductive Refusal where
  /-- An arm of `exec` without a meaning yet. Raised by no arm of this model. Safe. -/
  | notModelled (mnemonic : String)
  /-- R77, and log entries 15 and 20: the request stands for no instruction. Raised by `step`. Safe. -/
  | notAnOperation (why : DecodeError)
  /-- R97: "for `len(B) < 2` the operation is refused". Raised by CRC.VERIFY. Safe. -/
  | verifyTooShort
  /-- R134: an LED channel outside 0 to 255, never clamped or truncated. Raised by BLD.SETLED. Safe. -/
  | channelOutOfRange
  /-- R66, R135, log entry 15: the last two bytes of a REQ.SETLED frame are not its checksum, and no other frame
  can be built. Raised by REQ.SETLED. Safe. -/
  | notTheChecksum
  /-- R24: `len(buf) + len(chunk) > BUF_CAP`. Raised by FEED and RX under a finite `BUF_CAP` only (`feedOp`,
  `rxOp`), so never by `exec`. Safe. -/
  | bufCapExceeded
  /-- D5: the chunk is longer than `MAX_CHUNK`. Raised as the one before, under a finite `MAX_CHUNK` only. Safe. -/
  | chunkTooLong
  deriving DecidableEq, Repr

/-! ### Results -/

/-- R121: a scaled value carried as the raw integer and the constant divisor of its field; no rounding. -/
structure Scaled where
  raw : Int
  divisor : Nat
  deriving DecidableEq, Repr

/-- R143, R68: the ten fields of a "latest data short" response, each with its raw integer and divisor. -/
structure SensorReading where
  sequenceNumber : Scaled
  temperature : Scaled
  humidity : Scaled
  ambientLight : Scaled
  pressure : Scaled
  noise : Scaled
  etvoc : Scaled
  eco2 : Scaled
  discomfortIndex : Scaled
  heatStroke : Scaled
  deriving DecidableEq, Repr

/-- R143: what a successful PARSE returns. A StatusResponse does not say which status address it came from. -/
inductive DecodedResponse where
  | sensor (r : SensorReading)
  | status (value : Byte)
  deriving DecidableEq, Repr

/-- R200: the six FrameErrors, with the information each carries. -/
inductive FrameError where
  /-- code 1, R145 -/
  | truncated
  /-- code 2, R146 -/
  | badHeader
  /-- code 3, R147: `expected = length + 4`, `actual = len(B)` -/
  | lengthMismatch (expected actual : Nat)
  /-- code 4, R148: carries nothing -/
  | checksumMismatch
  /-- code 5, R162 -/
  | unknownAddress (address : Word)
  /-- code 6, R201: the recorded fault of the first failing read -/
  | outOfRange (f : Fault)
  deriving DecidableEq, Repr

/-- R140: "exactly one outcome, either a DecodedResponse or a FrameError". -/
inductive ParseOutcome where
  | decoded (d : DecodedResponse)
  | error (e : FrameError)
  deriving DecidableEq, Repr

/-- R97: the result of CRC.VERIFY, `(match, computed, stored)`. -/
structure ChecksumVerdict where
  ok : Bool
  computed : Word
  stored : Word
  deriving DecidableEq, Repr

/-- The result column of R75: what an operation hands to the host. -/
inductive Result where
  /-- no result: CRC.INIT, CRC.BYTE, SYNC.RESET (and no operation has run yet) -/
  | none
  /-- UNPK.U8 -/
  | u8 (v : Byte)
  /-- CRC.READ, CRC.SUM, UNPK.U16 -/
  | u16 (v : Word)
  /-- UNPK.I16, an integer from -32768 to 32767 (R114) -/
  | i16 (v : Int)
  /-- UNPK.I32, an integer from -2147483648 to 2147483647 (R115) -/
  | i32 (v : Int)
  /-- CRC.VERIFY -/
  | verdict (v : ChecksumVerdict)
  /-- PACK.U8, PACK.U16, the builders, the request-frame rows -/
  | bytes (bs : List Byte)
  /-- PARSE, the response-frame rows -/
  | parsed (o : ParseOutcome)
  /-- FEED -/
  | frames (fs : List (List Byte))
  /-- RX -/
  | outcomes (os : List ParseOutcome)
  /-- an UNPK operation that ended in FieldOutOfRange (R118): a recorded error, no value -/
  | fault (f : Fault)
  deriving DecidableEq, Repr

/-! ### The state -/

/-- R20: "exactly two pieces of state that outlive an operation", `buf` and `reg`. The other two fields are the
host's side of the interface and the model's own (log entries 1 and 2): the requests issued and not yet run, and
what the last operation returned. -/
structure State where
  /-- R21: the reassembly buffer, oldest retained byte first. -/
  buf : List Byte
  /-- R25: the CRC register. -/
  reg : Word
  /-- The model's own: the requests the host has issued, oldest first (R7). -/
  pending : List Request
  /-- The model's own: the result of the last operation. -/
  out : Result
  deriving DecidableEq, Repr

/-- R33, R231: the creation of a block instance. The host has issued nothing and nothing has been returned. -/
def State.reset : State := { buf := [], reg := 0xFFFF#16, pending := [], out := .none }

end Sys2Proof.Machine
end

