-- ==== Sys2Proof/Machine/Operands.lean ====
section
/-! DEFINITION. The one addressing mode of the block and every operand form of it (spec/41_le_datapath.md R124):
`MemRead(B, off, n)` of a byte sequence at an offset, with zero or sign extension (R110, R112 to R115, R118), and
the field map of a "latest data short" response (spec/30_encoding.md R68, R69, R70). -/

namespace Sys2Proof.Machine

/-- R13, R110, R118: `MemRead(B, off, n)`. A read with any byte past the end raises FieldOutOfRange(off, n): no
zero fill, no shortened read, no wrapped offset. -/
def memRead (bs : List Byte) (off n : Nat) : Except Fault Nat :=
  if off + n ≤ bs.length then .ok (fromLe (slice bs off (off + n))) else .error (.fieldOutOfRange off n)

/-- A `u8` read (R112): the byte itself, never negative. -/
def readU8 (bs : List Byte) (off : Nat) : Except Fault Byte :=
  (memRead bs off 1).map (BitVec.ofNat 8)

/-- A `u16` read (R113). -/
def readU16 (bs : List Byte) (off : Nat) : Except Fault Word :=
  (memRead bs off 2).map (BitVec.ofNat 16)

/-- An `i16` read (R114). -/
def readI16 (bs : List Byte) (off : Nat) : Except Fault Int := (memRead bs off 2).map (sext 16)

/-- An `i32` read (R115). -/
def readI32 (bs : List Byte) (off : Nat) : Except Fault Int := (memRead bs off 4).map (sext 32)

/-! ### Fields of a frame (R60, R68) -/

/-- R60: the offset of the length field. -/
def lengthOffset : Nat := 2
/-- R60: the offset of the address field. -/
def addressOffset : Nat := 5
/-- R60: the offset of the data; the status byte of R69 and the sequence number of R68 stand there. -/
def dataOffset : Nat := 7

/-- The raw types of R68. -/
inductive RawType where
  | u8 | i16 | i32
  deriving DecidableEq, Repr

/-- The units of R68. They are only named: no rule computes with one (R122). -/
inductive MeasureUnit where
  | none | celsius | percentRH | lux | hectopascal | decibel | ppb | ppm
  deriving DecidableEq, Repr

/-- The ten fields of R68, in its order. -/
inductive SensorField where
  | sequenceNumber | temperature | humidity | ambientLight | pressure | noise | etvoc | eco2 | discomfortIndex
  | heatStroke
  deriving DecidableEq, Repr

/-- The offset column of R68: byte offsets from the start of the frame (90_conflicts.md C2). -/
def SensorField.offset : SensorField → Nat
  | .sequenceNumber => 7
  | .temperature => 8
  | .humidity => 10
  | .ambientLight => 12
  | .pressure => 14
  | .noise => 18
  | .etvoc => 20
  | .eco2 => 22
  | .discomfortIndex => 24
  | .heatStroke => 26

/-- The raw type column of R68; signed where the source says so (91_not_in_source.md N21, log entry 16). -/
def SensorField.rawType : SensorField → RawType
  | .sequenceNumber => .u8
  | .pressure => .i32
  | .temperature | .humidity | .ambientLight | .noise | .etvoc | .eco2 | .discomfortIndex | .heatStroke => .i16

/-- The divisor column of R68. -/
def SensorField.divisor : SensorField → Nat
  | .temperature | .humidity | .noise | .discomfortIndex | .heatStroke => 100
  | .pressure => 1000
  | .sequenceNumber | .ambientLight | .etvoc | .eco2 => 1

/-- The unit column of R68. -/
def SensorField.unit : SensorField → MeasureUnit
  | .sequenceNumber | .discomfortIndex => .none
  | .temperature | .heatStroke => .celsius
  | .humidity => .percentRH
  | .ambientLight => .lux
  | .pressure => .hectopascal
  | .noise => .decibel
  | .etvoc => .ppb
  | .eco2 => .ppm

/-- The size column of R68, in bytes. -/
def RawType.size : RawType → Nat
  | .u8 => 1
  | .i16 => 2
  | .i32 => 4

/-- R70: the raw integer of a raw type from its unsigned value. -/
def RawType.interpret : RawType → Nat → Int
  | .u8, u => u
  | .i16, u => sext 16 u
  | .i32, u => sext 32 u

/-- One field read of R150 to R159: the raw integer with the field's divisor. -/
def readField (bs : List Byte) (f : SensorField) : Except Fault Scaled :=
  (memRead bs f.offset f.rawType.size).map fun u => { raw := f.rawType.interpret u, divisor := f.divisor }

/-- R121: the value of a field is the exact rational `raw / divisor`. -/
def Scaled.value (v : Scaled) : Rat := (v.raw : Rat) / (v.divisor : Rat)

end Sys2Proof.Machine
end

