-- ==== Sys2Proof/Machine/Flags.lean ====
section
/-! DEFINITION. The conditions the rules test. The block keeps no status flag, no sticky error bit and no
condition code (spec/10_state.md R28): each condition is computed and consumed inside one operation. Bit 0 of the
register in the CRC step is tested in `crcStep`. -/

namespace Sys2Proof.Machine

/-- R146: the first two bytes are `0x52` and `0x42`, in this order. -/
def hasHeader (bs : List Byte) : Bool := bs.take 2 == Config.header

/-- The length field at offset 2, for a sequence of at least 4 bytes (R147, R176). -/
def lengthField (bs : List Byte) : Nat := fromLe (slice bs lengthOffset (lengthOffset + 2))

/-- R176: `packetSize = length + 4`, 4 to 65539, never reduced modulo 65536 (R10, R123). -/
def packetSize (bs : List Byte) : Nat := lengthField bs + Config.lenBias

/-- R97: the checksum over everything but the last two bytes, against those two read little-endian; for at least
2 bytes. -/
def verifyChecksum (bs : List Byte) : ChecksumVerdict :=
  let computed := crc16 (slice bs 0 (bs.length - 2))
  let stored : Word := BitVec.ofNat 16 (fromLe (slice bs (bs.length - 2) bs.length))
  { ok := computed == stored, computed := computed, stored := stored }

/-- R24, D5: why a chunk is refused under a configuration, if it is. -/
def refusesChunk (c : Config) (held chunk : Nat) : Option Refusal :=
  if c.maxChunk.any (fun m => decide (m < chunk)) then some .chunkTooLong
  else if c.bufCap.any (fun cap => decide (cap < held + chunk)) then some .bufCapExceeded
  else none

end Sys2Proof.Machine
end

