-- ==== Sys2Proof/Machine/Ops.lean ====
section
/-! DEFINITION. The named operations on the state that the meanings share: writing a register, returning a
result, and what replaces taking an exception (spec/60_exceptions.md R206) and returning from one (R209). -/

namespace Sys2Proof.Machine

/-- The answer of a step of this machine. -/
abbrev Answer := Host.Outcome State Fault Refusal

/-- `reg <- v` (R13). -/
def State.setReg (s : State) (v : Word) : State := { s with reg := v }

/-- `buf <- bs` (R13). -/
def State.setBuf (s : State) (bs : List Byte) : State := { s with buf := bs }

/-- The operation's result, handed to the host. -/
def State.setOut (s : State) (r : Result) : State := { s with out := r }

/-- The operation returns: its effects are complete and its result stands at the host's port (R205, R236). -/
def ret (r : Result) (s : State) : Answer := .next (s.setOut r)

/-- `raise FieldOutOfRange(off, n)` of an operation of its own (R13, R118, R202). What replaces trap entry (R206):
"Nothing is saved, no mode changes, no control goes anywhere"; the error is the result. There is no return from it
and nothing to restore (R209): the next operation simply runs. -/
def raiseFault (f : Fault) (s : State) : Answer := ret (.fault f) s

/-- An UNPK operation (R112 to R115): the read's value in the form the row returns it, or the recorded fault. It
reads and writes no state of the block. -/
def unpack (bs : List Byte) (off n : Nat) (form : Nat → Result) (s : State) : Answer :=
  match memRead bs off n with
  | .ok u => ret (form u) s
  | .error f => raiseFault f s

/-- R130: a builder computes the checksum of the body (`reg <- c`) and returns body and checksum. -/
def buildFrame (body : List Byte) (s : State) : Answer :=
  ret (.bytes (sealFrame body)) (s.setReg (crc16 body))

end Sys2Proof.Machine
end

