-- ==== Sys2Proof/Machine/Build.lean ====
section
/-! DEFINITION. The CODEC sequencer, encode side: BLD.RDLATEST, BLD.SETLED, BLD.RDFLASH (spec/42_frame_build.md
R131 to R134), and the three request-frame rows REQ.* (spec/30_encoding.md R65 to R67), each of which is the frame
that one builder emits (log entry 4). No builder touches `buf`; each leaves its checksum in `reg`. -/

namespace Sys2Proof.Machine

/-- BLD.RDLATEST, R131: `frame(0x01, 0x5022, [])`. -/
def execBldRdlatest (s : State) : Answer := buildFrame rdLatestBody s

/-- BLD.SETLED, R132: `frame(0x02, 0x5111, le_2(0x0001) ++ [red, green, blue])`. R134: a channel outside 0 to 255 is
refused, "no frame is returned and no state changes"; never clamped, never truncated. -/
def execBldSetled (red green blue : Nat) (s : State) : Answer :=
  if channelOk red && channelOk green && channelOk blue then
    buildFrame (setLedBody (BitVec.ofNat 8 red) (BitVec.ofNat 8 green) (BitVec.ofNat 8 blue)) s
  else .refused .channelOutOfRange

/-- BLD.RDFLASH, R133: `frame(0x01, 0x5403, [])`. -/
def execBldRdflash (s : State) : Answer := buildFrame rdFlashBody s

/-- REQ.RDLATEST, R65: the frame BLD.RDLATEST emits. -/
def execReqRdlatest (s : State) : Answer := buildFrame rdLatestBody s

/-- REQ.SETLED, R66: the frame BLD.SETLED emits for its three channel bytes. Its last two bytes ARE the checksum of
the first twelve; with other bytes there it is no frame the block can build (R135), and is refused. -/
def execReqSetled (red green blue crcLo crcHi : Byte) (s : State) : Answer :=
  if setLedChecksumOk red green blue crcLo crcHi then buildFrame (setLedBody red green blue) s
  else .refused .notTheChecksum

/-- REQ.RDFLASH, R67: the frame BLD.RDFLASH emits. -/
def execReqRdflash (s : State) : Answer := buildFrame rdFlashBody s

end Sys2Proof.Machine
end

