-- ==== Sys2Proof/Machine/Crc.lean ====
section
/-! DEFINITION. The CRC unit: CRC.INIT, CRC.BYTE, CRC.READ, CRC.SUM, CRC.VERIFY (spec/40_crc.md R93 to R97). -/

namespace Sys2Proof.Machine

/-- CRC.INIT, R93: `reg <- 0xFFFF`. -/
def execCrcInit (s : State) : Answer := ret .none (s.setReg Config.crcInit)

/-- CRC.BYTE, R94: `reg <- crc_byte(reg, b)`. It does not initialise. -/
def execCrcByte (b : Byte) (s : State) : Answer := ret .none (s.setReg (crcByte s.reg b))

/-- CRC.READ, R95: `result <- reg`; writes nothing of the block. -/
def execCrcRead (s : State) : Answer := ret (.u16 s.reg) s

/-- CRC.SUM, R96: the whole checksum in one operation, left in `reg`. -/
def execCrcSum (bs : List Byte) (s : State) : Answer := ret (.u16 (crc16 bs)) (s.setReg (crc16 bs))

/-- CRC.VERIFY, R97: leaves `reg = computed`; refused for fewer than 2 bytes. -/
def execCrcVerify (bs : List Byte) (s : State) : Answer :=
  if bs.length < 2 then .refused .verifyTooShort
  else ret (.verdict (verifyChecksum bs)) (s.setReg (verifyChecksum bs).computed)

end Sys2Proof.Machine
end

