-- ==== Sys2Proof/Machine/Le.lean ====
section
/-! DEFINITION. The LE unit: UNPK.U8, UNPK.U16, UNPK.I16, UNPK.I32, PACK.U8, PACK.U16 (spec/41_le_datapath.md R112
to R117). No operation of this family reads or writes `buf` or `reg`. -/

namespace Sys2Proof.Machine

/-- UNPK.U8, R112. -/
def execUnpkU8 (bs : List Byte) (off : Nat) (s : State) : Answer :=
  unpack bs off 1 (fun u => .u8 (BitVec.ofNat 8 u)) s

/-- UNPK.U16, R113. -/
def execUnpkU16 (bs : List Byte) (off : Nat) (s : State) : Answer :=
  unpack bs off 2 (fun u => .u16 (BitVec.ofNat 16 u)) s

/-- UNPK.I16, R114: `sext_16( MemRead(B, off, 2) )`. -/
def execUnpkI16 (bs : List Byte) (off : Nat) (s : State) : Answer :=
  unpack bs off 2 (fun u => .i16 (sext 16 u)) s

/-- UNPK.I32, R115: `sext_32( MemRead(B, off, 4) )`. -/
def execUnpkI32 (bs : List Byte) (off : Nat) (s : State) : Answer :=
  unpack bs off 4 (fun u => .i32 (sext 32 u)) s

/-- PACK.U8, R116: `[v]`. -/
def execPackU8 (v : Byte) (s : State) : Answer := ret (.bytes [v]) s

/-- PACK.U16, R117: `[ v[7:0], v[15:8] ]`. -/
def execPackU16 (v : Word) (s : State) : Answer := ret (.bytes (leWord v)) s

end Sys2Proof.Machine
end

