-- ==== Sys2Proof/Machine/Parse.lean ====
section
/-! DEFINITION. The CODEC sequencer, decode side: PARSE, step by step (spec/43_frame_parse.md R140 to R166), and the
three response-frame rows RSP.* (spec/30_encoding.md R68, R69, R72), each of which is a frame given to PARSE (log
entry 4). PARSE writes `reg`, if its step 4 is reached, and nothing else. -/

namespace Sys2Proof.Machine

/-- R60 to R62 as read by steps 1 to 3 (R145, R146, R147), in this order (R144): the first that fails. -/
def shapeError (bs : List Byte) : Option FrameError :=
  if bs.length < Config.minScan then some .truncated
  else if !hasHeader bs then some .badHeader
  else if bs.length ≠ packetSize bs then some (.lengthMismatch (packetSize bs) bs.length)
  else none

/-- R150 to R159: the ten reads, in increasing offset; the first that passes the end is the one reported, and no
partial reading is returned (R160). -/
def sensorReading (bs : List Byte) : Except Fault SensorReading := do
  let sequenceNumber ← readField bs .sequenceNumber
  let temperature ← readField bs .temperature
  let humidity ← readField bs .humidity
  let ambientLight ← readField bs .ambientLight
  let pressure ← readField bs .pressure
  let noise ← readField bs .noise
  let etvoc ← readField bs .etvoc
  let eco2 ← readField bs .eco2
  let discomfortIndex ← readField bs .discomfortIndex
  let heatStroke ← readField bs .heatStroke
  return { sequenceNumber, temperature, humidity, ambientLight, pressure, noise, etvoc, eco2, discomfortIndex,
           heatStroke }

/-- The end of a PARSE whose reads gave a response, or raised (R160 (b)). -/
def ParseOutcome.ofReads : Except Fault DecodedResponse → ParseOutcome
  | .ok d => .decoded d
  | .error f => .error (.outOfRange f)

/-- R149, R161, R162: step 5, dispatch on the address at offset 5. -/
def dispatchAddress (bs : List Byte) : ParseOutcome :=
  match readU16 bs addressOffset with
  | .error f => .error (.outOfRange f)
  | .ok address =>
    if address = Config.addrLatest then .ofReads ((sensorReading bs).map .sensor)
    else if address = Config.addrLed ∨ address = Config.addrFlash then .ofReads ((readU8 bs dataOffset).map .status)
    else .error (.unknownAddress address)

/-- R165: PARSE in one piece, on the register and a byte sequence. Step 4 (R148) is a hard rejection: no field is
decoded when it fails. "`reg` is left at `crc16(B[0 : n-2])` whenever step 4 was reached, and unchanged otherwise." -/
def parseFrame (r : Word) (bs : List Byte) : Word × ParseOutcome :=
  match shapeError bs with
  | some e => (r, .error e)
  | none =>
    let v := verifyChecksum bs
    (v.computed, if v.ok then dispatchAddress bs else .error .checksumMismatch)

/-- A PARSE as an operation on the state. -/
def parseOp (bs : List Byte) (s : State) : Answer :=
  ret (.parsed (parseFrame s.reg bs).2) (s.setReg (parseFrame s.reg bs).1)

/-- PARSE, R140, R165. -/
def execParse (bs : List Byte) (s : State) : Answer := parseOp bs s

/-- RSP.LATEST, R68: the frame with address bytes `22 50`, decoded by PARSE. -/
def execRspLatest (length : Word) (command : Byte) (rest : List Byte) (s : State) : Answer :=
  parseOp (responseBytes length command 0x22#8 0x50#8 rest) s

/-- RSP.LED, R69: the frame with address bytes `11 51`, decoded by PARSE. -/
def execRspLed (length : Word) (command : Byte) (rest : List Byte) (s : State) : Answer :=
  parseOp (responseBytes length command 0x11#8 0x51#8 rest) s

/-- RSP.FLASH, R69: the frame with address bytes `03 54`, decoded by PARSE. -/
def execRspFlash (length : Word) (command : Byte) (rest : List Byte) (s : State) : Answer :=
  parseOp (responseBytes length command 0x03#8 0x54#8 rest) s

/-- R200: the outcome codes, "for reference only": 0 for a success, 1 to 6 in the order of the table. -/
def ParseOutcome.code : ParseOutcome → Nat
  | .decoded _ => 0
  | .error .truncated => 1
  | .error .badHeader => 2
  | .error (.lengthMismatch _ _) => 3
  | .error .checksumMismatch => 4
  | .error (.unknownAddress _) => 5
  | .error (.outOfRange _) => 6

end Sys2Proof.Machine
end

