-- ==== Sys2Proof/Machine/Sync.lean ====
section
/-! DEFINITION. The SYNC unit: FEED, RX, SYNC.RESET (spec/44_reassembler.md R170 to R181). FEED is eager and atomic
(R171): it runs its loop to the end and returns the finished list of frames. -/

namespace Sys2Proof.Machine

/-- R173: the least offset of the pair `0x52, 0x42`, both bytes inside the buffer. -/
def findHeader : List Byte → Option Nat
  | a :: b :: rest =>
    if a = Config.hdr0 ∧ b = Config.hdr1 then some 0 else (findHeader (b :: rest)).map (· + 1)
  | _ => none

/-- What one iteration of FEED's loop does. -/
inductive Iteration where
  /-- exit the loop with this buffer (R173, R174, R176) -/
  | exit (buf : List Byte)
  /-- continue the loop with this buffer (R175) -/
  | dropPrefix (buf : List Byte)
  /-- yield a frame and continue with this buffer (R177) -/
  | yieldFrame (frame buf : List Byte)
  deriving DecidableEq, Repr

/-- R174: nothing is kept but a last byte `0x52`. -/
def keepSplitHeader (buf : List Byte) : List Byte :=
  if buf.getLast? = some Config.hdr0 then [Config.hdr0] else []

/-- One iteration of the loop of R178. -/
def iteration (buf : List Byte) : Iteration :=
  if buf.length < Config.minScan then .exit buf
  else
    match findHeader buf with
    | none => .exit (keepSplitHeader buf)
    | some 0 =>
      if buf.length < packetSize buf then .exit buf
      else .yieldFrame (buf.take (packetSize buf)) (buf.drop (packetSize buf))
    | some (i + 1) => .dropPrefix (buf.drop (i + 1))

/-- The loop of R178, at most `fuel` iterations. R182: each iteration exits or makes the buffer strictly shorter,
so one more iteration than the buffer has bytes is enough (log entry 13). -/
def feedLoop : Nat → List Byte → List (List Byte) × List Byte
  | 0, buf => ([], buf)
  | fuel + 1, buf =>
    match iteration buf with
    | .exit b => ([], b)
    | .dropPrefix b => feedLoop fuel b
    | .yieldFrame f b => (f :: (feedLoop fuel b).1, (feedLoop fuel b).2)

/-- R178: the frames a FEED yields, in stream order, and the buffer it leaves; the chunk is appended first (R172). -/
def feedBytes (buf chunk : List Byte) : List (List Byte) × List Byte :=
  feedLoop ((buf ++ chunk).length + 1) (buf ++ chunk)

/-- R180: PARSE of every frame in order, each leaving `reg` updated; an error in one does not stop the rest. -/
def parseAll : Word → List (List Byte) → Word × List ParseOutcome
  | r, [] => (r, [])
  | r, f :: fs => ((parseAll (parseFrame r f).1 fs).1, (parseFrame r f).2 :: (parseAll (parseFrame r f).1 fs).2)

/-- FEED under a configuration (R170, R178; R24 for a finite `BUF_CAP`: refused "with no change of state"). -/
def feedOp (c : Config) (chunk : List Byte) (s : State) : Answer :=
  match refusesChunk c s.buf.length chunk.length with
  | some r => .refused r
  | none => ret (.frames (feedBytes s.buf chunk).1) (s.setBuf (feedBytes s.buf chunk).2)

/-- RX under a configuration (R180): FEED, then PARSE of every frame yielded. -/
def rxOp (c : Config) (chunk : List Byte) (s : State) : Answer :=
  match refusesChunk c s.buf.length chunk.length with
  | some r => .refused r
  | none =>
    ret (.outcomes (parseAll s.reg (feedBytes s.buf chunk).1).2)
      ((s.setBuf (feedBytes s.buf chunk).2).setReg (parseAll s.reg (feedBytes s.buf chunk).1).1)

/-- FEED, R170, with both parameters at their normative value. -/
def execFeed (chunk : List Byte) (s : State) : Answer := feedOp Config.normative chunk s

/-- RX, R180, with both parameters at their normative value. -/
def execRx (chunk : List Byte) (s : State) : Answer := rxOp Config.normative chunk s

/-- SYNC.RESET, R181: `buf <- []`; `reg` is unchanged. -/
def execSyncReset (s : State) : Answer := ret .none (s.setBuf [])

end Sys2Proof.Machine
end

