-- ==== Sys2Proof/Machine/Dispatch.lean ====
section
/-! DEFINITION. One arm per constructor of Instr: the meaning of each instruction. -/

namespace Sys2Proof.Machine

def exec (i : Instr) (s : State) : Host.Outcome State Fault Refusal :=
  match i with
  -- the CRC unit
  | .crcInit => Sys2Proof.Machine.execCrcInit s
  | .crcByte b => Sys2Proof.Machine.execCrcByte b s
  | .crcRead => Sys2Proof.Machine.execCrcRead s
  | .crcSum bs => Sys2Proof.Machine.execCrcSum bs s
  | .crcVerify bs => Sys2Proof.Machine.execCrcVerify bs s
  -- the LE unit
  | .unpkU8 bs off => Sys2Proof.Machine.execUnpkU8 bs off s
  | .unpkU16 bs off => Sys2Proof.Machine.execUnpkU16 bs off s
  | .unpkI16 bs off => Sys2Proof.Machine.execUnpkI16 bs off s
  | .unpkI32 bs off => Sys2Proof.Machine.execUnpkI32 bs off s
  | .packU8 v => Sys2Proof.Machine.execPackU8 v s
  | .packU16 v => Sys2Proof.Machine.execPackU16 v s
  -- the CODEC sequencer, encode side
  | .bldRdlatest => Sys2Proof.Machine.execBldRdlatest s
  | .bldSetled r g b => Sys2Proof.Machine.execBldSetled r g b s
  | .bldRdflash => Sys2Proof.Machine.execBldRdflash s
  -- the CODEC sequencer, decode side
  | .parse bs => Sys2Proof.Machine.execParse bs s
  -- the SYNC unit
  | .feed chunk => Sys2Proof.Machine.execFeed chunk s
  | .rx chunk => Sys2Proof.Machine.execRx chunk s
  | .syncReset => Sys2Proof.Machine.execSyncReset s
  -- the frame rows
  | .reqRdlatest => Sys2Proof.Machine.execReqRdlatest s
  | .reqSetled r g b cl ch => Sys2Proof.Machine.execReqSetled r g b cl ch s
  | .reqRdflash => Sys2Proof.Machine.execReqRdflash s
  | .rspLatest n c rest => Sys2Proof.Machine.execRspLatest n c rest s
  | .rspLed n c rest => Sys2Proof.Machine.execRspLed n c rest s
  | .rspFlash n c rest => Sys2Proof.Machine.execRspFlash n c rest s

end Sys2Proof.Machine
end

