-- ==== Sys2Proof/Machine/Step.lean ====
section
/-! DEFINITION. One step of the block: it takes the oldest request the host has issued and runs it to completion
(spec/00_scope.md R7). There is no program counter (spec/10_state.md R26). -/

namespace Sys2Proof.Machine

/-- With nothing issued the block waits: "after reset the block waits for the host's first operation" (R231) and it
"has no move that is not an operation issued by the host" (R235). A request that stands for no operation is refused:
"no state changes and no result is produced" (R77). -/
def step (s : State) : Host.Outcome State Fault Refusal :=
  match s.pending with
  | [] => .next s
  | r :: rest =>
    match decode r with
    | .error e => .refused (.notAnOperation e)
    | .ok i => exec i { s with pending := rest }

/-- The state in which the host has issued the request of a word of the opcode table as the very next one (log
entries 10 and 11). -/
def State.withFetchWord (s : State) (nbits w : Nat) : State :=
  { s with pending := tableRequest nbits w :: s.pending }

end Sys2Proof.Machine
end

