-- ==== Sys2Proof/Machine/Detector.lean ====
section
/-! DEFINITION. The byte-serial detector of spec/44_reassembler.md R191, "informative, not normative": a five-state
machine that is fed one byte at a time and keeps no garbage. It is no part of the block's state (log entry 17); an
obligation states that it yields the frames FEED yields. -/

namespace Sys2Proof.Machine

/-- The five states of R191. A frame under construction is held with the bytes stored so far, oldest first. -/
inductive Detector where
  | hunt
  | got52
  | len0 (stored : List Byte)
  | len1 (stored : List Byte)
  | body (stored : List Byte) (packetSize : Nat)
  deriving DecidableEq, Repr

/-- When `packetSize` bytes are stored: yield and go to HUNT. -/
def Detector.store (stored : List Byte) (size : Nat) : Detector × Option (List Byte) :=
  if stored.length = size then (.hunt, some stored) else (.body stored size, none)

/-- One byte of R191. -/
def Detector.next : Detector → Byte → Detector × Option (List Byte)
  | .hunt, b => (if b = Config.hdr0 then .got52 else .hunt, none)
  | .got52, b =>
    if b = Config.hdr1 then (.len0 Config.header, none)
    else if b = Config.hdr0 then (.got52, none)
    else (.hunt, none)
  | .len0 st, b => (.len1 (st ++ [b]), none)
  | .len1 st, b => Detector.store (st ++ [b]) (fromLe (slice (st ++ [b]) 2 4) + Config.lenBias)
  | .body st size, b => Detector.store (st ++ [b]) size

/-- The frames the detector yields over a stream, in order, and the state it ends in. -/
def Detector.run : Detector → List Byte → List (List Byte) × Detector
  | d, [] => ([], d)
  | d, b :: bs =>
    ((d.next b).2.toList ++ ((d.next b).1.run bs).1, ((d.next b).1.run bs).2)

end Sys2Proof.Machine
end

