-- ==== Sys2Proof/Safety.lean ====
section
/-! DEFINITION. What counts as a run that went right (spec/60_exceptions.md R201, R210), the contents the
reassembly buffer can have after a FEED (spec/44_reassembler.md R185), and which operations touch what
(spec/30_encoding.md R75). -/

namespace Sys2Proof.Machine

/-- R201: the faults a result records. ChecksumMismatch and UnknownAddress "are ordinary outcomes for the model;
neither is a fault" (R210). -/
def ParseOutcome.fault? : ParseOutcome → Option Fault
  | .error (.outOfRange f) => some f
  | .error .truncated => none
  | .error .badHeader => none
  | .error (.lengthMismatch _ _) => none
  | .error .checksumMismatch => none
  | .error (.unknownAddress _) => none
  | .decoded _ => none

/-- The faults recorded in a result, in order. -/
def Result.faults : Result → List Fault
  | .fault f => [f]
  | .parsed o => o.fault?.toList
  | .outcomes os => os.filterMap ParseOutcome.fault?
  | _ => []

/-- The strict machine: a step whose result records a fault stops with it. R201: "a claim about a run in which it
occurs is a claim about a run that went wrong". -/
def stepStrict (s : State) : Answer :=
  match s.pending with
  | [] => step s
  | _ :: _ =>
    match step s with
    | .next t =>
      match t.out.faults with
      | [] => .next t
      | f :: _ => .fault f
    | .fault f => .fault f
    | .refused r => .refused r

/-- `k` steps of the strict machine, stopping at the first fault or refusal. -/
def runStrict : Nat → State → Answer
  | 0, s => .next s
  | k + 1, s =>
    match stepStrict s with
    | .next t => runStrict k t
    | .fault f => .fault f
    | .refused r => .refused r

/-- A run of `k` steps that meets no fault and no refusal. -/
def SafeRun (k : Nat) (s : State) : Prop := ∃ t, runStrict k s = .next t

/-- R185: what `buf` can hold after a FEED. (a) 0 to 3 bytes, unscanned; (b) `[]` or `[52]`, which are among (a);
(c) at least 4 bytes that begin `52 42` and are fewer than the packetSize they announce. -/
def settled (buf : List Byte) : Bool :=
  decide (buf.length < Config.minScan) || (hasHeader buf && decide (buf.length < packetSize buf))

/-- The invariant every step keeps: the buffer is as a FEED leaves it. -/
def BufferSettled (s : State) : Prop := settled s.buf = true

/-- R22: FEED and RX read and write `buf`, SYNC.RESET writes it; no other operation does either. -/
def writesBuf : Instr → Bool
  | .feed _ => true
  | .rx _ => true
  | .syncReset => true
  | _ => false

/-- R75, column "state written": the operations that may write `reg`, and the frame rows that build or parse. -/
def writesReg : Instr → Bool
  | .crcInit | .crcByte _ | .crcSum _ | .crcVerify _ | .bldRdlatest | .bldSetled _ _ _ | .bldRdflash | .parse _
  | .rx _ | .reqRdlatest | .reqSetled _ _ _ _ _ | .reqRdflash | .rspLatest _ _ _ | .rspLed _ _ _
  | .rspFlash _ _ _ => true
  | .crcRead | .unpkU8 _ _ | .unpkU16 _ _ | .unpkI16 _ _ | .unpkI32 _ _ | .packU8 _ | .packU16 _ | .feed _
  | .syncReset => false

/-- R25: "Only CRC.BYTE and CRC.READ expose the old content of `reg`." -/
def exposesReg : Instr → Bool
  | .crcByte _ => true
  | .crcRead => true
  | _ => false

/-- The operations in order, each on the state the one before left; the first stop ends it. -/
def execAll : List Instr → State → Answer
  | [], s => .next s
  | i :: is, s =>
    match exec i s with
    | .next t => execAll is t
    | .fault f => .fault f
    | .refused r => .refused r

end Sys2Proof.Machine
end

