-- ==== Sys2Proof/Certificates/Slice0/Reference.lean ====
section
/-! DEFINITION. The spec's rules written a second time, in the form the statements are made in: the checksum in
natural-number arithmetic (spec/40_crc.md R90 to R92), FEED's loop as a relation, one constructor per exit and edge
(spec/44_reassembler.md R173 to R178), the frame layout by pattern (spec/30_encoding.md R60, R62), and values by
bytes (R70). Nothing here is used by the machine. -/

namespace Sys2Proof.Reference

open Sys2Proof.Machine

/-! ### Values by bytes (R70): the byte at the higher offset is the more significant -/

/-- `u16` of the bytes at offsets `o` and `o + 1`. -/
def u16 (b0 b1 : Byte) : Word := b1 ++ b0

/-- `i16` of the bytes at offsets `o` and `o + 1`: two's complement. -/
def i16 (b0 b1 : Byte) : Int := (b1 ++ b0).toInt

/-- `i32` of the bytes at offsets `o` to `o + 3`: two's complement. -/
def i32 (b0 b1 b2 b3 : Byte) : Int := (b3 ++ b2 ++ b1 ++ b0).toInt

/-- The byte at an offset. -/
def byteAt (bs : List Byte) (off : Nat) : Byte := bs.getD off 0

/-! ### The checksum in natural-number arithmetic -/

/-- R90 with the tested bit as a remainder and the shift as a quotient. -/
def crcStepNat (r : Nat) : Nat := if r % 2 = 1 then (r / 2) ^^^ 0xA001 else r / 2

/-- R91. -/
def crcByteNat (r b : Nat) : Nat := crcStepNat^[8] (r ^^^ b)

/-- R92. -/
def crcNat (bs : List Byte) : Nat := bs.foldl (fun r b => crcByteNat r b.toNat) 0xFFFF

/-! ### Frames -/

/-- R184, R62: the header, a length field, and as many bytes as it announces: a sequence that passes steps 1 to 3
of PARSE (R145 to R147). -/
def FrameShape (bs : List Byte) : Prop :=
  ∃ lo hi rest, bs = 0x52#8 :: 0x42#8 :: lo :: hi :: rest ∧ bs.length = (u16 lo hi).toNat + 4

/-- R148: the last two bytes, low byte first, are the checksum of all the others (step 4 of PARSE). -/
def ChecksumRight (bs : List Byte) : Prop :=
  ∃ covered lo hi, bs = covered ++ [lo, hi] ∧ u16 lo hi = crc16 covered

/-- The checksum of everything but the last two bytes, which step 4 leaves in `reg` (R165). -/
def checksumOf (bs : List Byte) : Word := crc16 (bs.take (bs.length - 2))

/-- R160, R165: the reads of the sensor arm in increasing offset, `(off, n)` each. -/
def sensorReads : List (Nat × Nat) :=
  [(7, 1), (8, 2), (10, 2), (12, 2), (14, 4), (18, 2), (20, 2), (22, 2), (24, 2), (26, 2)]

/-- R68: the reading of a frame of at least 28 bytes, field by field. -/
def sensorOf (bs : List Byte) : SensorReading :=
  { sequenceNumber := ⟨(byteAt bs 7).toNat, 1⟩
    temperature := ⟨i16 (byteAt bs 8) (byteAt bs 9), 100⟩
    humidity := ⟨i16 (byteAt bs 10) (byteAt bs 11), 100⟩
    ambientLight := ⟨i16 (byteAt bs 12) (byteAt bs 13), 1⟩
    pressure := ⟨i32 (byteAt bs 14) (byteAt bs 15) (byteAt bs 16) (byteAt bs 17), 1000⟩
    noise := ⟨i16 (byteAt bs 18) (byteAt bs 19), 100⟩
    etvoc := ⟨i16 (byteAt bs 20) (byteAt bs 21), 1⟩
    eco2 := ⟨i16 (byteAt bs 22) (byteAt bs 23), 1⟩
    discomfortIndex := ⟨i16 (byteAt bs 24) (byteAt bs 25), 100⟩
    heatStroke := ⟨i16 (byteAt bs 26) (byteAt bs 27), 100⟩ }

/-- R66 with the checksum left open: the first twelve bytes of the "set LED" request. -/
def setLedTwelve (red green blue : Byte) : List Byte :=
  [0x52#8, 0x42#8, 0x0A#8, 0x00#8, 0x02#8, 0x11#8, 0x51#8, 0x01#8, 0x00#8, red, green, blue]

/-- A body followed by the two bytes of its checksum, low byte first (R99). -/
def withChecksum (body : List Byte) : List Byte :=
  body ++ [(crc16 body).extractLsb' 0 8, (crc16 body).extractLsb' 8 8]

/-! ### Recorded faults -/

/-- R16, R201: the first FieldOutOfRange a result records: the outcome of an UNPK operation (R118), of a PARSE, or of
the first failing frame in the list of an RX (R180, R202); every other result records none. -/
def RecordsFirst : Result → Fault → Prop
  | .fault g, f => g = f
  | .parsed o, f => o = .error (.outOfRange f)
  | .outcomes os, f =>
    ∃ before after, os = before ++ .error (.outOfRange f) :: after ∧ ∀ o ∈ before, ∀ g, o ≠ .error (.outOfRange g)
  | .none, _ | .u8 _, _ | .u16 _, _ | .i16 _, _ | .i32 _, _ | .verdict _, _ | .bytes _, _ | .frames _, _ => False

/-! ### FEED -/

/-- The pair `0x52, 0x42` stands at offset `i`, both bytes inside (R173). -/
def HeaderAt (buf : List Byte) (i : Nat) : Prop := buf[i]? = some 0x52#8 ∧ buf[i + 1]? = some 0x42#8

/-- No header pair anywhere (R173: NONE). -/
def NoHeader (buf : List Byte) : Prop := ∀ i, ¬ HeaderAt buf i

/-- The loop of R178 as a relation: from this buffer it yields these frames and leaves this buffer. A derivation is
finite, so the relation holds only where the loop ends (R182). -/
inductive FeedRuns : List Byte → List (List Byte) → List Byte → Prop where
  /-- R173: the loop test fails. -/
  | short (buf : List Byte) : buf.length < 4 → FeedRuns buf [] buf
  /-- R174: no header, the last byte is `0x52`. -/
  | keepLast (buf : List Byte) : 4 ≤ buf.length → NoHeader buf → buf.getLast? = some 0x52#8 →
      FeedRuns buf [] [0x52#8]
  /-- R174: no header, any other last byte. -/
  | discard (buf : List Byte) : 4 ≤ buf.length → NoHeader buf → buf.getLast? ≠ some 0x52#8 → FeedRuns buf [] []
  /-- R175: the first header stands after garbage. -/
  | dropPrefix (buf : List Byte) (i : Nat) (frames : List (List Byte)) (left : List Byte) :
      4 ≤ buf.length → HeaderAt buf i → (∀ j, j < i → ¬ HeaderAt buf j) → 0 < i →
      FeedRuns (buf.drop i) frames left → FeedRuns buf frames left
  /-- R176: a header at offset 0, and fewer bytes than it announces. -/
  | stall (lo hi : Byte) (rest : List Byte) :
      (0x52#8 :: 0x42#8 :: lo :: hi :: rest).length < (u16 lo hi).toNat + 4 →
      FeedRuns (0x52#8 :: 0x42#8 :: lo :: hi :: rest) [] (0x52#8 :: 0x42#8 :: lo :: hi :: rest)
  /-- R177: a whole frame at the head is cut by its announced size and yielded. -/
  | extract (frame after : List Byte) (frames : List (List Byte)) (left : List Byte) :
      FrameShape frame → FeedRuns after frames left → FeedRuns (frame ++ after) (frame :: frames) left

/-- R183: `g0 ++ F1 ++ g1 ++ ... ++ Fk ++ gk`; empty unless there is one run of garbage more than there are frames. -/
def interleave : List (List Byte) → List (List Byte) → List Byte
  | g :: gs, f :: fs => g ++ f ++ interleave gs fs
  | [g], [] => g
  | _, _ => []

/-- FEED of each chunk in order: all the frames yielded, and the buffer left. -/
def feedChunks : List Byte → List (List Byte) → List (List Byte) × List Byte
  | buf, [] => ([], buf)
  | buf, c :: cs =>
    ((feedBytes buf c).1 ++ (feedChunks (feedBytes buf c).2 cs).1, (feedChunks (feedBytes buf c).2 cs).2)

/-- R180: the frames parsed in order as PARSE operations of the machine, each on the state the one before left:
the outcomes, and the register at the end. -/
def ParsedInOrder : State → List (List Byte) → List ParseOutcome → Word → Prop
  | s, [], outcomes, r => outcomes = [] ∧ r = s.reg
  | s, f :: fs, outcomes, r =>
    ∃ t o os, exec (.parse f) s = .next t ∧ t.out = .parsed o ∧ outcomes = o :: os ∧ ParsedInOrder t fs os r

end Sys2Proof.Reference
end

