-- ==== Sys2Proof/Certificates/Slice0/Obligations.lean ====
section
/-! DEFINITION. The statements for the provers. Each docstring names the rule of spec/ it formalises. A statement of
the form `exec i s = .next { s with … }` is the frame as well: every field of the state not named (`buf`, `reg`,
`pending`) is unchanged, and `buf` is the only memory that outlives an operation. -/

open Sys2Proof Sys2Proof.Machine Sys2Proof.Reference

/-! ### Encoding and stepping -/

/-- R65, R67, R72, R75: words written out from the spec's tables decode to the instructions they stand for: at least
one operation of each family of R75, the two request frames that have no field, and for each of the three response rows
bytes that begin with seven it selects. That a frame is presented as a request of its own, outbound or inbound, is the
model's choice (log entry 4): the five frame clauses rest on it. -/
def Obligations.TableWordsDecode : Prop :=
  decode (.op 0b00000010#8 [.u8 0x52#8]) = .ok (.crcByte 0x52#8) ∧
  decode (.op 0b00000101#8 [.bytes [0xFF#8, 0xFF#8]]) = .ok (.crcVerify [0xFF#8, 0xFF#8]) ∧
  decode (.op 0b00010011#8 [.bytes [0x02#8, 0x76#8, 0x0F#8, 0x00#8], .nat 0]) =
    .ok (.unpkI32 [0x02#8, 0x76#8, 0x0F#8, 0x00#8] 0) ∧
  decode (.op 0b00011001#8 [.u16 0x5022#16]) = .ok (.packU16 0x5022#16) ∧
  decode (.op 0b00100001#8 [.nat 1, .nat 2, .nat 3]) = .ok (.bldSetled 1 2 3) ∧
  decode (.op 0b00110000#8 [.bytes []]) = .ok (.parse []) ∧
  decode (.op 0b01000000#8 [.bytes [0x52#8]]) = .ok (.feed [0x52#8]) ∧
  decode (.op 0b01001111#8 []) = .ok .syncReset ∧
  decode (.frameOut [0b01010010#8, 0b01000010#8, 0b00000101#8, 0b00000000#8, 0b00000001#8, 0b00100010#8,
    0b01010000#8, 0b11100010#8, 0b10111011#8]) = .ok .reqRdlatest ∧
  decode (.frameOut [0b01010010#8, 0b01000010#8, 0b00000101#8, 0b00000000#8, 0b00000001#8, 0b00000011#8,
    0b01010100#8, 0b11111011#8, 0b00101000#8]) = .ok .reqRdflash ∧
  decode (.frameIn [0x52#8, 0x42#8, 0x1A#8, 0x00#8, 0x00#8, 0x22#8, 0x50#8, 0x01#8]) =
    .ok (.rspLatest 26#16 0x00#8 [0x01#8]) ∧
  decode (.frameIn [0x52#8, 0x42#8, 0x06#8, 0x00#8, 0x02#8, 0x11#8, 0x51#8]) = .ok (.rspLed 6#16 0x02#8 []) ∧
  decode (.frameIn [0x52#8, 0x42#8, 0x06#8, 0x00#8, 0x01#8, 0x03#8, 0x54#8]) = .ok (.rspFlash 6#16 0x01#8 [])

/-- R7, R231, R235: a step runs the oldest request the host has issued: when it decodes to an instruction, the step
is that instruction on the state with the request taken away; with nothing issued the block waits. Model's choice,
log entry 1: the requests are held in `pending`. -/
def Obligations.StepRunsTheDecodedOperation : Prop :=
  (∀ s r rest i, s.pending = r :: rest → decode r = .ok i → step s = exec i { s with pending := rest }) ∧
  (∀ s, s.pending = [] → step s = .next s)

/-- Every instruction, well-formed or not, with every operand at every value: decoding what `encode` writes gives it
back. -/
def Obligations.DecodeOfEncodeIsTheInstruction : Prop :=
  ∀ i : Instr, decode (encode i) = .ok i

/-- The other direction: a request that decodes is the one encoding of its instruction, so no two requests mean the
same and no bit of a request is ignored. -/
def Obligations.EncodeOfDecodeIsTheRequest : Prop :=
  ∀ (r : Request) (i : Instr), decode r = .ok i → encode i = r

/-- R77: an operation code outside the table of R75 selects no operation, whatever the operands, and is refused. -/
def Obligations.UnassignedCodesAreRefused : Prop :=
  ∀ (s : State) (code : Byte) (operands : List Operand) (rest : List Request),
    code ∉ [0x01#8, 0x02#8, 0x03#8, 0x04#8, 0x05#8, 0x10#8, 0x11#8, 0x12#8, 0x13#8, 0x18#8, 0x19#8, 0x20#8, 0x21#8,
      0x22#8, 0x30#8, 0x40#8, 0x41#8, 0x4F#8] →
    s.pending = .op code operands :: rest →
    step s = .refused (.notAnOperation (.unassignedCode code))

/-- R33: the creation of an instance leaves `buf` empty and `reg` at `0xFFFF`; SYNC.RESET leaves `buf` empty and `reg`
unchanged. -/
def Obligations.ResetValuesOfBufferAndRegister : Prop :=
  (Sys2Proof.core.reset = State.reset ∧ State.reset.buf = [] ∧ State.reset.reg = 0xFFFF#16) ∧
  ∀ s : State, ∃ t, exec .syncReset s = .next t ∧ t.buf = [] ∧ t.reg = s.reg

/-! ### The CRC unit -/

/-- R93: CRC.INIT. -/
def Obligations.CrcInitLoadsOnes : Prop :=
  ∀ s : State, exec .crcInit s = .next { s with reg := 0xFFFF#16, out := .none }

/-- R94, R91, R90: CRC.BYTE absorbs one byte into whatever the register holds; the step is written in
natural-number arithmetic. -/
def Obligations.CrcByteAbsorbsOneByte : Prop :=
  ∀ (s : State) (b : Byte),
    exec (.crcByte b) s =
      .next { s with reg := BitVec.ofNat 16 (crcByteNat s.reg.toNat b.toNat), out := .none }

/-- R95: CRC.READ returns the register and writes nothing of the block. -/
def Obligations.CrcReadReturnsTheRegister : Prop :=
  ∀ s : State, exec .crcRead s = .next { s with out := .u16 s.reg }

/-- R96, R92: CRC.SUM computes the whole checksum, whatever `reg` held, and leaves it in `reg`. -/
def Obligations.CrcSumIsTheWholeChecksum : Prop :=
  ∀ (s : State) (bs : List Byte),
    exec (.crcSum bs) s =
      .next { s with reg := BitVec.ofNat 16 (crcNat bs), out := .u16 (BitVec.ofNat 16 (crcNat bs)) }

/-- R97: CRC.VERIFY compares the checksum of all but the last two bytes with those two read little-endian; below two
bytes it is refused. -/
def Obligations.CrcVerifyComparesTheTrailingBytes : Prop :=
  (∀ (s : State) (covered : List Byte) (lo hi : Byte),
    exec (.crcVerify (covered ++ [lo, hi])) s =
      .next { s with
        reg := BitVec.ofNat 16 (crcNat covered)
        out := .verdict
          { ok := decide (BitVec.ofNat 16 (crcNat covered) = u16 lo hi)
            computed := BitVec.ofNat 16 (crcNat covered)
            stored := u16 lo hi } }) ∧
  (∀ (s : State) (bs : List Byte), bs.length < 2 → exec (.crcVerify bs) s = .refused .verifyTooShort)

/-- R101: INIT, one BYTE for each byte, READ returns what SUM returns, and leaves the same register. -/
def Obligations.StreamedChecksumEqualsOneShot : Prop :=
  ∀ (s : State) (bs : List Byte),
    execAll (Instr.crcInit :: (bs.map Instr.crcByte ++ [Instr.crcRead])) s = exec (.crcSum bs) s ∧
    ∃ t, exec (.crcSum bs) s = .next t ∧ t.out = .u16 t.reg

/-- R100: "changing any single bit in the input changes the output": in any byte sequence, replacing one byte by a
different one (so flipping any one bit) changes the checksum. -/
def Obligations.EverySingleByteChangeIsSeen : Prop :=
  ∀ (before after : List Byte) (b b' : Byte), b ≠ b' →
    crc16 (before ++ [b] ++ after) ≠ crc16 (before ++ [b'] ++ after)

/-- R102 (general knowledge in the spec, checked there on two frames): the checksum over a body followed by its own
checksum bytes, low byte first, is zero, so CRC.SUM of a whole frame returns zero. -/
def Obligations.ResidueOfASealedFrameIsZero : Prop :=
  ∀ (s : State) (body : List Byte),
    exec (.crcSum (withChecksum body)) s = .next { s with reg := 0#16, out := .u16 0#16 }

/-- R105: the table form of the byte step gives the values of R91: shift the register by eight and XOR the table
entry of its low byte XORed with the data byte. -/
def Obligations.TableDrivenByteStepAgrees : Prop :=
  ∀ (r : Word) (b : Byte),
    crcByte r b = (r >>> 8) ^^^ BitVec.ofNat 16 (crcByteNat 0 (r.setWidth 8 ^^^ b).toNat)

/-! ### The LE unit -/

/-- R112 to R115: the four reads of bytes that lie inside the sequence, at any offset, whatever stands before and
after. -/
def Obligations.UnpackReadsLittleEndian : Prop :=
  ∀ (s : State) (pre post : List Byte) (b0 b1 b2 b3 : Byte),
    exec (.unpkU8 (pre ++ b0 :: post) pre.length) s = .next { s with out := .u8 b0 } ∧
    exec (.unpkU16 (pre ++ b0 :: b1 :: post) pre.length) s = .next { s with out := .u16 (u16 b0 b1) } ∧
    exec (.unpkI16 (pre ++ b0 :: b1 :: post) pre.length) s = .next { s with out := .i16 (i16 b0 b1) } ∧
    exec (.unpkI32 (pre ++ b0 :: b1 :: b2 :: b3 :: post) pre.length) s =
      .next { s with out := .i32 (i32 b0 b1 b2 b3) }

/-- R118: a read that would pass the end gives no value: the outcome is FieldOutOfRange(off, n), recorded (log entry
5), and nothing of the block changes. -/
def Obligations.UnpackPastTheEndRecordsTheFault : Prop :=
  ∀ (s : State) (bs : List Byte) (off : Nat),
    (bs.length < off + 1 → exec (.unpkU8 bs off) s = .next { s with out := .fault (.fieldOutOfRange off 1) }) ∧
    (bs.length < off + 2 → exec (.unpkU16 bs off) s = .next { s with out := .fault (.fieldOutOfRange off 2) }) ∧
    (bs.length < off + 2 → exec (.unpkI16 bs off) s = .next { s with out := .fault (.fieldOutOfRange off 2) }) ∧
    (bs.length < off + 4 → exec (.unpkI32 bs off) s = .next { s with out := .fault (.fieldOutOfRange off 4) })

/-- R116, R117: PACK.U8 and PACK.U16. -/
def Obligations.PackWritesLowByteFirst : Prop :=
  (∀ (s : State) (v : Byte), exec (.packU8 v) s = .next { s with out := .bytes [v] }) ∧
  (∀ (s : State) (v : Word),
    exec (.packU16 v) s = .next { s with out := .bytes [v.extractLsb' 0 8, v.extractLsb' 8 8] })

/-- R120: unpacking at offset 0 what was packed gives the value back, for `u8` and `u16`. -/
def Obligations.UnpackOfPackIsTheValue : Prop :=
  (∀ (s t : State) (v : Byte) (bs : List Byte), exec (.packU8 v) s = .next t → t.out = .bytes bs →
    exec (.unpkU8 bs 0) t = .next { s with out := .u8 v }) ∧
  (∀ (s t : State) (v : Word) (bs : List Byte), exec (.packU16 v) s = .next t → t.out = .bytes bs →
    exec (.unpkU16 bs 0) t = .next { s with out := .u16 v })

/-- R43: reads of different widths at overlapping offsets are consistent: a two-byte read is two one-byte reads, a
four-byte read two two-byte reads. -/
def Obligations.MixedWidthReadsAreConsistent : Prop :=
  ∀ (bs : List Byte) (off v : Nat),
    (memRead bs off 2 = .ok v →
      ∃ a b, memRead bs off 1 = .ok a ∧ memRead bs (off + 1) 1 = .ok b ∧ v = a + 256 * b) ∧
    (memRead bs off 4 = .ok v →
      ∃ a b, memRead bs off 2 = .ok a ∧ memRead bs (off + 2) 2 = .ok b ∧ v = a + 65536 * b)

/-- R119: `sext_N` is a bijection between the unsigned `n`-bit values and `-2^(n-1) .. 2^(n-1) - 1`. -/
def Obligations.SignConversionIsABijection : Prop :=
  ∀ n : Nat, 0 < n →
    (∀ u, u < 2 ^ n → -(2 : Int) ^ (n - 1) ≤ sext n u ∧ sext n u < (2 : Int) ^ (n - 1)) ∧
    (∀ z : Int, -(2 : Int) ^ (n - 1) ≤ z → z < (2 : Int) ^ (n - 1) →
      ∃ u, (u < 2 ^ n ∧ sext n u = z) ∧ ∀ u', u' < 2 ^ n → sext n u' = z → u' = u)

/-! ### The builders and the request-frame rows -/

/-- R131, R133 (and R65, R67): the two requests without operands are always the same nine bytes, and leave their
checksum in `reg`. -/
def Obligations.ReadRequestsAreTheseNineBytes : Prop :=
  ∀ s : State,
    exec .bldRdlatest s = .next { s with
      reg := 0xBBE2#16
      out := .bytes [0x52#8, 0x42#8, 0x05#8, 0x00#8, 0x01#8, 0x22#8, 0x50#8, 0xE2#8, 0xBB#8] } ∧
    exec .bldRdflash s = .next { s with
      reg := 0x28FB#16
      out := .bytes [0x52#8, 0x42#8, 0x05#8, 0x00#8, 0x01#8, 0x03#8, 0x54#8, 0xFB#8, 0x28#8] }

/-- R132: the fourteen bytes of "set LED", the channels in order at offsets 9 to 11, unchanged; the checksum of the
first twelve, low byte first, is left in `reg`. -/
def Obligations.SetLedBuildsFourteenBytes : Prop :=
  ∀ (s : State) (red green blue : Nat), red < 256 → green < 256 → blue < 256 →
    exec (.bldSetled red green blue) s = .next { s with
      reg := BitVec.ofNat 16 (crcNat (setLedTwelve (BitVec.ofNat 8 red) (BitVec.ofNat 8 green) (BitVec.ofNat 8 blue)))
      out := .bytes
        (withChecksum (setLedTwelve (BitVec.ofNat 8 red) (BitVec.ofNat 8 green) (BitVec.ofNat 8 blue))) }

/-- R134: with any channel outside 0 to 255 BLD.SETLED is refused; it is not clamped and not cut to 8 bits. -/
def Obligations.ChannelOutOfRangeIsRefused : Prop :=
  ∀ (s : State) (red green blue : Nat), 256 ≤ red ∨ 256 ≤ green ∨ 256 ≤ blue →
    exec (.bldSetled red green blue) s = .refused .channelOutOfRange

/-- The request-frame rows (log entry 4, the model's choice): each is the frame its builder emits (R65, R66, R67). A
REQ.SETLED word whose last two bytes are not the checksum of its first twelve is refused (log entry 15). -/
def Obligations.RequestRowsAreTheBuiltFrames : Prop :=
  ∀ s : State,
    exec .reqRdlatest s = .next { s with reg := 0xBBE2#16, out := .bytes reqRdlatestBytes } ∧
    exec .reqRdflash s = .next { s with reg := 0x28FB#16, out := .bytes reqRdflashBytes } ∧
    (∀ red green blue lo hi : Byte, u16 lo hi = crc16 (setLedTwelve red green blue) →
      exec (.reqSetled red green blue lo hi) s = .next { s with
        reg := u16 lo hi
        out := .bytes (setLedTwelve red green blue ++ [lo, hi]) }) ∧
    (∀ red green blue lo hi : Byte, u16 lo hi ≠ crc16 (setLedTwelve red green blue) →
      exec (.reqSetled red green blue lo hi) s = .refused .notTheChecksum)

/-- R136, R130: whatever a builder returns is a well-formed frame: header present, `len = length + 4`, checksum correct,
and `reg` holds that checksum. The three request-frame rows are named too: that such a row is emitted as its builder
does is the model's choice (log entry 4), and of the rows R136 and R130 say nothing. -/
def Obligations.BuilderOutputsAreWellFormed : Prop :=
  ∀ (s t : State) (i : Instr),
    i = .bldRdlatest ∨ i = .bldRdflash ∨ (∃ r g b, i = .bldSetled r g b) ∨ i = .reqRdlatest ∨ i = .reqRdflash ∨
      (∃ r g b lo hi, i = .reqSetled r g b lo hi) →
    exec i s = .next t →
    ∃ bs, t.out = .bytes bs ∧ FrameShape bs ∧ ChecksumRight bs ∧ t.reg = checksumOf bs

/-! ### PARSE and the response-frame rows -/

/-- R145 to R148, in the order of R144: each check is reported only if the ones before it passed; `reg` is written
only when step 4 was reached; no field is returned. -/
def Obligations.ParseReportsTheFirstFailingCheck : Prop :=
  ∀ (s : State) (bs : List Byte),
    (bs.length < 4 → exec (.parse bs) s = .next { s with out := .parsed (.error .truncated) }) ∧
    (4 ≤ bs.length → (byteAt bs 0 ≠ 0x52#8 ∨ byteAt bs 1 ≠ 0x42#8) →
      exec (.parse bs) s = .next { s with out := .parsed (.error .badHeader) }) ∧
    (4 ≤ bs.length → byteAt bs 0 = 0x52#8 → byteAt bs 1 = 0x42#8 →
      bs.length ≠ (u16 (byteAt bs 2) (byteAt bs 3)).toNat + 4 →
      exec (.parse bs) s = .next { s with
        out := .parsed (.error (.lengthMismatch ((u16 (byteAt bs 2) (byteAt bs 3)).toNat + 4) bs.length)) }) ∧
    (FrameShape bs → ¬ ChecksumRight bs →
      exec (.parse bs) s = .next { s with reg := checksumOf bs, out := .parsed (.error .checksumMismatch) })

/-- R149 to R159: a well-formed frame with address `22 50` and at least 28 bytes decodes into the ten fields at their
offsets, each with its raw type and divisor, whatever its command byte and whatever data follows. -/
def Obligations.ParseDecodesTheSensorReading : Prop :=
  ∀ (s : State) (bs : List Byte), FrameShape bs → ChecksumRight bs → 28 ≤ bs.length →
    byteAt bs 5 = 0x22#8 → byteAt bs 6 = 0x50#8 →
    exec (.parse bs) s = .next { s with reg := checksumOf bs, out := .parsed (.decoded (.sensor (sensorOf bs))) }

/-- R160: a well-formed sensor frame of fewer than 28 bytes ends in FieldOutOfRange of the first read, in increasing
offset, that passes the end. -/
def Obligations.ShortSensorFrameNamesTheFirstFailingRead : Prop :=
  ∀ (s : State) (bs : List Byte), FrameShape bs → ChecksumRight bs → bs.length < 28 →
    byteAt bs 5 = 0x22#8 → byteAt bs 6 = 0x50#8 →
    ∃ read, sensorReads.find? (fun p => decide (bs.length < p.1 + p.2)) = some read ∧
      exec (.parse bs) s = .next { s with
        reg := checksumOf bs
        out := .parsed (.error (.outOfRange (.fieldOutOfRange read.1 read.2))) }

/-- R161: a well-formed frame with address bytes `11 51` or `03 54` gives the byte at offset 7 as the status, and
every such frame has that byte. -/
def Obligations.ParseReadsTheStatusByte : Prop :=
  ∀ (s : State) (bs : List Byte), FrameShape bs → ChecksumRight bs →
    (byteAt bs 5 = 0x11#8 ∧ byteAt bs 6 = 0x51#8) ∨ (byteAt bs 5 = 0x03#8 ∧ byteAt bs 6 = 0x54#8) →
    8 ≤ bs.length ∧
    exec (.parse bs) s = .next { s with
      reg := checksumOf bs
      out := .parsed (.decoded (.status (byteAt bs 7))) }

/-- R162: any other address of a well-formed frame is reported with its 16 bits, and no data byte is decoded; the
outcome is reached only so. -/
def Obligations.ParseReportsTheUnknownAddress : Prop :=
  (∀ (s : State) (bs : List Byte), FrameShape bs → ChecksumRight bs → 7 ≤ bs.length →
    u16 (byteAt bs 5) (byteAt bs 6) ∉ [0x5022#16, 0x5111#16, 0x5403#16] →
    exec (.parse bs) s = .next { s with
      reg := checksumOf bs
      out := .parsed (.error (.unknownAddress (u16 (byteAt bs 5) (byteAt bs 6)))) }) ∧
  (∀ (s t : State) (bs : List Byte) (address : Word), exec (.parse bs) s = .next t →
    t.out = .parsed (.error (.unknownAddress address)) →
    FrameShape bs ∧ ChecksumRight bs ∧ 7 ≤ bs.length ∧ address = u16 (byteAt bs 5) (byteAt bs 6) ∧
      address ∉ [0x5022#16, 0x5111#16, 0x5403#16])

/-- R160: of the sequences of fewer than 7 bytes only `52 42 02 00 B1 E8` passes steps 1 to 4, and it ends in
FieldOutOfRange(5, 2). -/
def Obligations.OnlyOneShortFrameReachesTheDispatch : Prop :=
  (∀ bs : List Byte, FrameShape bs → ChecksumRight bs → bs.length < 7 →
    bs = [0x52#8, 0x42#8, 0x02#8, 0x00#8, 0xB1#8, 0xE8#8]) ∧
  (∀ s : State, exec (.parse [0x52#8, 0x42#8, 0x02#8, 0x00#8, 0xB1#8, 0xE8#8]) s =
    .next { s with reg := 0xE8B1#16, out := .parsed (.error (.outOfRange (.fieldOutOfRange 5 2))) })

/-- R141: PARSE is pure: its outcome depends on the bytes alone, so parsing again gives the same outcome, and it
writes nothing of the block but `reg`. -/
def Obligations.ParseOutcomeDependsOnTheBytesAlone : Prop :=
  ∀ bs : List Byte, ∃ o : ParseOutcome, ∀ s : State, ∃ r : Word,
    exec (.parse bs) s = .next { s with reg := r, out := .parsed o }

/-- R166: what PARSE makes of the block's own requests. -/
def Obligations.EchoedRequestsParseAsResponses : Prop :=
  (∀ s t : State, ∀ bs, exec .bldRdlatest s = .next t → t.out = .bytes bs →
    exec (.parse bs) t = .next { t with out := .parsed (.error (.outOfRange (.fieldOutOfRange 8 2))) }) ∧
  (∀ s t : State, ∀ bs, exec .bldRdflash s = .next t → t.out = .bytes bs →
    exec (.parse bs) t = .next { t with out := .parsed (.decoded (.status 0xFB#8)) }) ∧
  (∀ s t : State, ∀ red green blue bs, exec (.bldSetled red green blue) s = .next t → t.out = .bytes bs →
    exec (.parse bs) t = .next { t with out := .parsed (.decoded (.status 0x01#8)) })

/-- The response-frame rows (log entry 4, the model's choice): each is PARSE of its bytes in the layout of R60, in
every state and for every length, command and rest. -/
def Obligations.ResponseRowsAreParsed : Prop :=
  ∀ (s : State) (length : Word) (command : Byte) (rest : List Byte),
    (∃ t, exec (.rspLatest length command rest) s = .next t ∧
      exec (.parse (0x52#8 :: 0x42#8 :: length.extractLsb' 0 8 :: length.extractLsb' 8 8 :: command ::
        0x22#8 :: 0x50#8 :: rest)) s = .next t) ∧
    (∃ t, exec (.rspLed length command rest) s = .next t ∧
      exec (.parse (0x52#8 :: 0x42#8 :: length.extractLsb' 0 8 :: length.extractLsb' 8 8 :: command ::
        0x11#8 :: 0x51#8 :: rest)) s = .next t) ∧
    (∃ t, exec (.rspFlash length command rest) s = .next t ∧
      exec (.parse (0x52#8 :: 0x42#8 :: length.extractLsb' 0 8 :: length.extractLsb' 8 8 :: command ::
        0x03#8 :: 0x54#8 :: rest)) s = .next t)

/-! ### The SYNC unit -/

/-- R172 to R178, R182: FEED appends the chunk and runs the loop: the loop ends, and the frames and the buffer of
every finite run of it are what FEED returns and leaves; nothing else changes, `reg` not either. -/
def Obligations.FeedRunsTheLoop : Prop :=
  ∀ (s : State) (chunk : List Byte),
    (∃ frames left, FeedRuns (s.buf ++ chunk) frames left) ∧
    (∀ frames left, FeedRuns (s.buf ++ chunk) frames left →
      exec (.feed chunk) s = .next { s with buf := left, out := .frames frames })

/-- R183: no byte is altered, duplicated or moved: the old buffer and the chunk are the yielded frames in order, with
runs of discarded bytes between them, followed by what is still in `buf`; and no discarded run holds a header. -/
def Obligations.FeedConservesBytesAndOrder : Prop :=
  ∀ (s t : State) (chunk : List Byte) (frames : List (List Byte)),
    exec (.feed chunk) s = .next t → t.out = .frames frames →
    ∃ garbage : List (List Byte), garbage.length = frames.length + 1 ∧
      s.buf ++ chunk = interleave garbage frames ++ t.buf ∧ ∀ g ∈ garbage, NoHeader g

/-- R184: every frame FEED yields has the header and exactly the size its length field announces, at least 4. -/
def Obligations.EveryYieldedFrameHasItsShape : Prop :=
  ∀ (s t : State) (chunk : List Byte) (frames : List (List Byte)),
    exec (.feed chunk) s = .next t → t.out = .frames frames →
    ∀ f ∈ frames, FrameShape f ∧ 4 ≤ f.length

/-- R185: from any state whose buffer is as a FEED leaves it, every step of the machine, whatever the host issued,
leaves it so. -/
def Obligations.EveryStepKeepsTheBufferSettled : Prop :=
  ∀ s t : State, BufferSettled s → step s = .next t → BufferSettled t

/-- R185, R33: the empty buffer after reset is settled. -/
def Obligations.ResetBufferIsSettled : Prop := BufferSettled State.reset

/-- R185 and R186: whatever `buf` held before, after a FEED it holds at most 3 bytes, or begins `52 42` and is
shorter than the size announced; in any case at most 65538 bytes. -/
def Obligations.BufferAfterFeedIsBounded : Prop :=
  ∀ (s t : State) (chunk : List Byte), exec (.feed chunk) s = .next t →
    (t.buf.length ≤ 3 ∨
      ∃ lo hi rest, t.buf = 0x52#8 :: 0x42#8 :: lo :: hi :: rest ∧ t.buf.length < (u16 lo hi).toNat + 4) ∧
    t.buf.length ≤ 65538

/-- R189: feeding nothing to a buffer as a FEED leaves it yields nothing and changes nothing. -/
def Obligations.FeedingNothingChangesNothing : Prop :=
  ∀ s : State, BufferSettled s → exec (.feed []) s = .next { s with out := .frames [] }

/-- R187, the general form: for EVERY state of `buf`, the frames of one FEED of `a ++ b` are those of FEED `a`
followed by those of FEED `b`. The spec marks the general form as its own: not stated by the source, checked by
enumeration, not proved. -/
def Obligations.FramesDoNotDependOnTheCut : Prop :=
  ∀ (s s₁ s₂ t : State) (a b : List Byte) (fs fs₁ fs₂ : List (List Byte)),
    exec (.feed a) s = .next s₁ → s₁.out = .frames fs₁ →
    exec (.feed b) s₁ = .next s₂ → s₂.out = .frames fs₂ →
    exec (.feed (a ++ b)) s = .next t → t.out = .frames fs →
    fs = fs₁ ++ fs₂

/-- R187, "by induction": from any buffer as a FEED leaves it, and over any list of chunks, the frames yielded depend
only on the concatenated stream. The premise is the invariant of `EveryStepKeepsTheBufferSettled`: with no chunk at all
nothing is yielded, while one FEED of nothing would scan an unsettled buffer. The spec marks this general form as its
own: not stated by the source, checked by enumeration, not proved. -/
def Obligations.FramesDependOnTheStreamOnly : Prop :=
  ∀ (buf : List Byte) (chunks : List (List Byte)), settled buf = true →
    (feedChunks buf chunks).1 = (feedBytes buf chunks.flatten).1

/-- R188, garbage recovery: a run of bytes without the pair `52 42`, followed by a whole frame, yields exactly that
frame and leaves nothing. -/
def Obligations.GarbageBeforeAFrameIsDropped : Prop :=
  ∀ (s : State) (garbage frame : List Byte), s.buf = [] → NoHeader garbage → FrameShape frame →
    exec (.feed (garbage ++ frame)) s = .next { s with out := .frames [frame] }

/-- R188, split-header boundary: a chunk that ends in the `52` of a header, then one that begins with its `42`, give
the frame as if the header had not been cut. -/
def Obligations.SplitHeaderIsOneHeader : Prop :=
  ∀ (s : State) (garbage rest : List Byte), s.buf = [] → NoHeader garbage → FrameShape (0x52#8 :: 0x42#8 :: rest) →
    ∃ t, exec (.feed (garbage ++ [0x52#8])) s = .next t ∧ t.out = .frames [] ∧
      exec (.feed (0x42#8 :: rest)) t = .next { s with out := .frames [0x52#8 :: 0x42#8 :: rest] }

/-- R190: while the size announced at the head has not arrived, FEED yields nothing, and every byte that arrives,
whole valid frames included, is kept as part of that one frame. -/
def Obligations.StalledBufferKeepsEverything : Prop :=
  ∀ (s : State) (chunk : List Byte) (lo hi : Byte) (rest : List Byte),
    s.buf ++ chunk = 0x52#8 :: 0x42#8 :: lo :: hi :: rest →
    (s.buf ++ chunk).length < (u16 lo hi).toNat + 4 →
    exec (.feed chunk) s = .next { s with buf := s.buf ++ chunk, out := .frames [] }

/-- R180, R204: RX is FEED of the chunk followed by PARSE of each frame in order, each on the state the one before
left; it returns the outcomes in that order, an error in one stops none of the others, and it leaves the buffer of
the FEED and the register of the last PARSE. -/
def Obligations.RxIsFeedThenParseOfEachFrame : Prop :=
  ∀ (s : State) (chunk : List Byte), ∃ (fed : State) (frames : List (List Byte)) (outcomes : List ParseOutcome)
    (r : Word),
    exec (.feed chunk) s = .next fed ∧ fed.out = .frames frames ∧ ParsedInOrder fed frames outcomes r ∧
    exec (.rx chunk) s = .next { fed with reg := r, out := .outcomes outcomes }

/-- R180, R184: the only outcomes that can appear in RX's list are SensorReading, StatusResponse, ChecksumMismatch,
UnknownAddress and FieldOutOfRange. -/
def Obligations.RxNeverReportsAStructuralError : Prop :=
  ∀ (s t : State) (chunk : List Byte) (outcomes : List ParseOutcome),
    exec (.rx chunk) s = .next t → t.out = .outcomes outcomes →
    ∀ o ∈ outcomes, (∃ r, o = .decoded (.sensor r)) ∨ (∃ v, o = .decoded (.status v)) ∨
      o = .error .checksumMismatch ∨ (∃ a, o = .error (.unknownAddress a)) ∨
      ∃ off n, o = .error (.outOfRange (.fieldOutOfRange off n))

/-- R181: SYNC.RESET empties `buf` and leaves `reg` alone. -/
def Obligations.SyncResetEmptiesTheBuffer : Prop :=
  ∀ s : State, exec .syncReset s = .next { s with buf := [], out := .none }

/-- R191: the byte-serial detector, from HUNT, yields for every stream the frames one FEED of it yields from reset.
The spec marks the rule as checked by enumeration, not proved. -/
def Obligations.ByteSerialDetectorYieldsTheSameFrames : Prop :=
  ∀ stream : List Byte, (Detector.hunt.run stream).1 = (feedBytes [] stream).1

/-- R24: under a finite `BUF_CAP` a FEED (or RX) that would pass it is refused, and every other one does exactly what
the unbounded machine does; and with a legal capacity, at least 65539, a buffer as a FEED leaves it has room for one
more byte, so a frame can always be completed. -/
def Obligations.FiniteBufferCapRefusesOnlyOverflow : Prop :=
  (∀ (cap : Nat) (s : State) (chunk : List Byte),
    (cap < s.buf.length + chunk.length →
      feedOp { bufCap := some cap, maxChunk := none } chunk s = .refused .bufCapExceeded ∧
      rxOp { bufCap := some cap, maxChunk := none } chunk s = .refused .bufCapExceeded) ∧
    (s.buf.length + chunk.length ≤ cap →
      feedOp { bufCap := some cap, maxChunk := none } chunk s = exec (.feed chunk) s ∧
      rxOp { bufCap := some cap, maxChunk := none } chunk s = exec (.rx chunk) s)) ∧
  (∀ (c : Config) (s : State) (b : Byte), c.legal = true → c.maxChunk = none → BufferSettled s →
    feedOp c [b] s = exec (.feed [b]) s)

/-! ### Rules about the whole block -/

/-- R22: no operation but FEED, RX and SYNC.RESET writes `buf`. -/
def Obligations.OnlyTheSyncUnitWritesTheBuffer : Prop :=
  ∀ (i : Instr) (s t : State), writesBuf i = false → exec i s = .next t → t.buf = s.buf

/-- R22: no operation but FEED, RX and SYNC.RESET depends on `buf`: from two states that differ in it alone, any other
operation returns the same result and leaves the same register, or stops in the same way. -/
def Obligations.OnlyTheSyncUnitReadsTheBuffer : Prop :=
  ∀ (i : Instr) (s : State) (other : List Byte), writesBuf i = false →
    (∀ t, exec i s = .next t → exec i { s with buf := other } = .next { t with buf := other }) ∧
    (∀ r, exec i s = .refused r → exec i { s with buf := other } = .refused r)

/-- R75 (state written), R141, R170: the operations that leave `reg` as it was. -/
def Obligations.OtherOperationsLeaveTheRegister : Prop :=
  ∀ (i : Instr) (s t : State), writesReg i = false → exec i s = .next t → t.reg = s.reg

/-- R25: "Only CRC.BYTE and CRC.READ expose the old content of `reg`": for every other operation the result and the
buffer do not depend on it. -/
def Obligations.OldRegisterIsExposedByTwoOperationsOnly : Prop :=
  ∀ (i : Instr) (s t : State) (r : Word), exposesReg i = false → exec i s = .next t →
    ∃ r', exec i { s with reg := r } = .next { t with reg := r' }

/-- R212, R202: every operation is available at all times: in every state a well-formed instruction completes, and
takes nothing from the host's queue; and one that is not well-formed is refused (R97, R134; log entry 15). No
instruction ends the machine in a fault: that an UNPK, PARSE or RX whose read passes the end completes, with
FieldOutOfRange recorded, is the model's reading (log entry 5), and no rule cited says it. The six frame rows complete
with the action that the model chose for them (log entry 4). -/
def Obligations.EveryWellFormedInstructionCompletes : Prop :=
  ∀ (i : Instr) (s : State),
    (i.wf = true → ∃ t, exec i s = .next t ∧ t.pending = s.pending) ∧
    (i.wf = false → ∃ r, exec i s = .refused r)

/-- R121, R68: the value of each field of a decoded reading is exactly its raw integer over the divisor of its field:
sequence number, ambient light, eTVOC and eCO2 over 1, pressure over 1000, the others over 100. -/
def Obligations.ScaledValuesAreExact : Prop :=
  ∀ (bs : List Byte) (v : SensorReading), sensorReading bs = .ok v →
    v.sequenceNumber.value = v.sequenceNumber.raw ∧ 100 * v.temperature.value = v.temperature.raw ∧
    100 * v.humidity.value = v.humidity.raw ∧ v.ambientLight.value = v.ambientLight.raw ∧
    1000 * v.pressure.value = v.pressure.raw ∧ 100 * v.noise.value = v.noise.raw ∧
    v.etvoc.value = v.etvoc.raw ∧ v.eco2.value = v.eco2.raw ∧
    100 * v.discomfortIndex.value = v.discomfortIndex.raw ∧ 100 * v.heatStroke.value = v.heatStroke.raw

/-- R201: PARSE ends in FieldOutOfRange only for the six-byte frame `52 42 02 00 B1 E8` and for sensor frames (address
bytes `22 50`) of fewer than 28 bytes. -/
def Obligations.FieldOutOfRangeIsReachedByTheseFramesOnly : Prop :=
  ∀ (s t : State) (bs : List Byte) (f : Fault),
    exec (.parse bs) s = .next t → t.out = .parsed (.error (.outOfRange f)) →
    bs = [0x52#8, 0x42#8, 0x02#8, 0x00#8, 0xB1#8, 0xE8#8] ∨
      (bs.length < 28 ∧ byteAt bs 5 = 0x22#8 ∧ byteAt bs 6 = 0x50#8)

/-- R201, R16 (model's reading, log entry 5): the strict machine goes on exactly where the machine does and the result
records no fault (with nothing pending no operation has run, and both wait); it stops with a fault exactly where an
operation has run whose result records that FieldOutOfRange first; it is refused exactly where the machine is. So an
UNPK request that reads past the end stops it, and a run of it is a run of the machine. -/
def Obligations.StrictMachineStopsAtTheFirstRecordedFault : Prop :=
  (∀ s t : State, stepStrict s = .next t ↔ step s = .next t ∧ (s.pending = [] ∨ t.out.faults = [])) ∧
  (∀ (s : State) (f : Fault), stepStrict s = .fault f ↔
    s.pending ≠ [] ∧ ∃ t, step s = .next t ∧ RecordsFirst t.out f) ∧
  (∀ (s : State) (r : Refusal), stepStrict s = .refused r ↔ step s = .refused r) ∧
  (∀ (s : State) (code : Byte) (n : Nat) (bs : List Byte) (off : Nat) (rest : List Request),
    (code, n) ∈ [(0x10#8, 1), (0x11#8, 2), (0x12#8, 2), (0x13#8, 4)] →
    s.pending = .op code [.bytes bs, .nat off] :: rest → bs.length < off + n →
    stepStrict s = .fault (.fieldOutOfRange off n)) ∧
  (∀ (k : Nat) (s t : State), runStrict k s = .next t → Sys2Proof.core.run k s = .next t)
end

