-- ==== Sys2Proof/Laws/Bytes.lean ====
section
/-! SUPPORT. Little-endian values, their images, and what a read returns (spec/41_le_datapath.md R110, R111, R118). -/

namespace Sys2Proof.Machine

@[simp] theorem fromLe_nil : fromLe [] = 0 := rfl

@[simp] theorem fromLe_cons (b : Byte) (bs : List Byte) : fromLe (b :: bs) = b.toNat + 256 * fromLe bs := rfl

/-- R110: `0 <= from_le(S) < 256^n`. -/
theorem fromLe_lt (bs : List Byte) : fromLe bs < 256 ^ bs.length := by
  induction bs with
  | nil => simp
  | cons b bs ih =>
    have hb : b.toNat < 256 := b.isLt
    simp only [fromLe_cons, List.length_cons, Nat.pow_succ]
    omega

theorem fromLe_append (as bs : List Byte) :
    fromLe (as ++ bs) = fromLe as + 256 ^ as.length * fromLe bs := by
  induction as with
  | nil => simp
  | cons a as ih =>
    simp only [List.cons_append, fromLe_cons, ih, List.length_cons, Nat.pow_succ]
    ring

@[simp] theorem length_le (n v : Nat) : (le n v).length = n := by
  induction n generalizing v with
  | zero => rfl
  | succ n ih => simp [le, ih]

/-- R111: `from_le(le_n(v)) = v` for `v < 256^n`. -/
theorem fromLe_le (n v : Nat) : fromLe (le n v) = v % 256 ^ n := by
  induction n generalizing v with
  | zero => simp [le, Nat.mod_one]
  | succ n ih =>
    have hstep : v % 256 ^ (n + 1) = v % 256 + 256 * (v / 256 % 256 ^ n) := by
      rw [Nat.pow_succ', Nat.mod_mul]
    simp [le, ih, hstep]

/-- R111: `le_n(from_le(S)) = S` for `len(S) = n`. -/
theorem le_fromLe (bs : List Byte) : le bs.length (fromLe bs) = bs := by
  induction bs with
  | nil => rfl
  | cons b bs ih =>
    have hb : b.toNat < 256 := b.isLt
    have hdiv : (b.toNat + 256 * fromLe bs) / 256 = fromLe bs := by omega
    have hhead : BitVec.ofNat 8 (b.toNat + 256 * fromLe bs) = b := by
      apply BitVec.eq_of_toNat_eq
      simp only [BitVec.toNat_ofNat]
      omega
    simp only [List.length_cons, fromLe_cons, le, hdiv, hhead, ih]

/-- R117: the image of a `u16` is its two bytes, low byte first. -/
theorem leWord_eq (w : Word) : leWord w = [w.extractLsb' 0 8, w.extractLsb' 8 8] := by
  have hw : w.toNat < 65536 := w.isLt
  simp only [leWord, le, List.cons.injEq, and_true]
  constructor <;> apply BitVec.eq_of_toNat_eq <;> simp [Nat.shiftRight_eq_div_pow]

/-- R70: the higher offset is the more significant byte. -/
theorem wordOfLe_eq (lo hi : Byte) : wordOfLe lo hi = hi ++ lo := by
  have h1 : lo.toNat < 256 := lo.isLt
  have h2 : hi.toNat < 256 := hi.isLt
  apply BitVec.eq_of_toNat_eq
  rw [BitVec.toNat_append, Nat.shiftLeft_eq, ← Nat.shiftLeft_eq, Nat.shiftLeft_add_eq_or_of_lt h1 hi.toNat |>.symm]
  simp only [wordOfLe, fromLe_cons, fromLe_nil, BitVec.toNat_ofNat, Nat.shiftLeft_eq]
  omega

/-- The two bytes of a `u16` give it back. -/
theorem wordOfLe_leWord (w : Word) : wordOfLe (w.extractLsb' 0 8) (w.extractLsb' 8 8) = w := by
  have h := fromLe_le 2 w.toNat
  have hw : w.toNat < 65536 := w.isLt
  rw [show le 2 w.toNat = [w.extractLsb' 0 8, w.extractLsb' 8 8] from leWord_eq w] at h
  apply BitVec.eq_of_toNat_eq
  simp only [wordOfLe, h, BitVec.toNat_ofNat]
  omega

/-! ### Reads -/

/-- A read of bytes that lie inside the sequence, whatever stands before and after. -/
theorem memRead_append (pre mid post : List Byte) :
    memRead (pre ++ (mid ++ post)) pre.length mid.length = .ok (fromLe mid) := by
  have hlen : pre.length + mid.length ≤ (pre ++ (mid ++ post)).length := by simp
  simp only [memRead, hlen, if_true, slice]
  rw [List.drop_take]
  simp

/-- R118: a read that would pass the end raises, and names itself. -/
theorem memRead_past_end {bs : List Byte} {off n : Nat} (h : bs.length < off + n) :
    memRead bs off n = .error (.fieldOutOfRange off n) := by
  simp [memRead, Nat.not_le.mpr h]

/-- Everything a read can do: the bytes of its slice, or the fault that names it. -/
theorem memRead_cases (bs : List Byte) (off n : Nat) :
    (off + n ≤ bs.length ∧ memRead bs off n = .ok (fromLe (slice bs off (off + n)))) ∨
    (bs.length < off + n ∧ memRead bs off n = .error (.fieldOutOfRange off n)) := by
  by_cases h : off + n ≤ bs.length
  · exact .inl ⟨h, by simp [memRead, h]⟩
  · exact .inr ⟨by omega, memRead_past_end (by omega)⟩

/-- A slice inside the sequence has its full length. -/
theorem length_slice {bs : List Byte} {i j : Nat} (h : j ≤ bs.length) : (slice bs i j).length = j - i := by
  simp [slice, Nat.min_eq_left h]

end Sys2Proof.Machine
end

