-- ==== Sys2Proof/Laws/Checksum.lean ====
section
/-! SUPPORT. The checksum as a fold (spec/40_crc.md R92, R101), its step as a bijection, and the lengths of frames. -/

namespace Sys2Proof.Machine

@[simp] theorem crcFrom_nil (r : Word) : crcFrom r [] = r := rfl

@[simp] theorem crcFrom_cons (r : Word) (b : Byte) (bs : List Byte) :
    crcFrom r (b :: bs) = crcFrom (crcByte r b) bs := rfl

/-- R101: a checksum may be continued from the register value reached so far. -/
theorem crcFrom_append (r : Word) (as bs : List Byte) : crcFrom r (as ++ bs) = crcFrom (crcFrom r as) bs := by
  simp [crcFrom, List.foldl_append]

theorem crc16_append (as bs : List Byte) : crc16 (as ++ bs) = crcFrom (crc16 as) bs := crcFrom_append _ as bs

/-- R90: bit 15 of the result is the tested bit. -/
theorem crcStep_msb (r : Word) : (crcStep r).getLsbD 15 = r.getLsbD 0 := by
  unfold crcStep
  split
  · next h => rw [h]; simp [Config.crcPoly]
  · next h => simp at h; simp [h]

/-- XOR with the same word on the right cancels. -/
theorem word_xor_cancel {a b c : Word} (h : a ^^^ c = b ^^^ c) : a = b := by
  have h' := congrArg (· ^^^ c) h
  simpa [BitVec.xor_assoc] using h'

/-- The bit step loses nothing. -/
theorem crcStep_injective {r r' : Word} (h : crcStep r = crcStep r') : r = r' := by
  have hbit : r.getLsbD 0 = r'.getLsbD 0 := by rw [← crcStep_msb, ← crcStep_msb, h]
  have hshift : r >>> 1 = r' >>> 1 := by
    unfold crcStep at h
    rw [hbit] at h
    split at h
    · exact word_xor_cancel h
    · exact h
  apply BitVec.eq_of_getLsbD_eq
  intro i hi
  cases i with
  | zero => exact hbit
  | succ i =>
    have := congrArg (fun v => v.getLsbD i) hshift
    simpa [BitVec.getLsbD_ushiftRight, Nat.add_comm] using this

theorem crcSteps_injective (n : Nat) {r r' : Word} (h : crcSteps n r = crcSteps n r') : r = r' := by
  induction n generalizing r r' with
  | zero => exact h
  | succ n ih => exact crcStep_injective (ih h)

/-- R100: for a fixed byte the byte step is injective on the register. -/
theorem crcByte_injective (b : Byte) {r r' : Word} (h : crcByte r b = crcByte r' b) : r = r' :=
  word_xor_cancel (crcSteps_injective 8 h)

theorem crcFrom_injective (bs : List Byte) {r r' : Word} (h : crcFrom r bs = crcFrom r' bs) : r = r' := by
  induction bs generalizing r r' with
  | nil => exact h
  | cons b bs ih => exact crcByte_injective b (ih h)

/-- R130: `len(frame) = length + 4`, with `length = len(data) + 5`. -/
theorem length_sealFrame_frameBody (cmd : Byte) (addr : Word) (data : List Byte) :
    (sealFrame (frameBody cmd addr data)).length = data.length + Config.overhead + Config.lenBias := by
  simp [sealFrame, frameBody, Config.header, leWord, Config.overhead, Config.lenBias]
  omega

end Sys2Proof.Machine
end

