-- ==== Sys2Proof/Laws/Decode.lean ====
section
/-! SUPPORT. A frame and its bytes in the opposite order are never both rows of the opcode table, so the reading that
`frameBytesOfNumber` takes is the only one that decodes (log entry 10). -/

namespace Sys2Proof

/-- What opens every frame that `decodeFrameOut` accepts, and what can stand at its end. -/
theorem decodeFrameOut_ok {bs : List Byte} {i : Instr} (h : decodeFrameOut bs = .ok i) :
    bs = reqRdlatestBytes ∨ bs = reqRdflashBytes ∨ ∃ r g b cl ch, bs = reqSetledPrefix ++ [r, g, b, cl, ch] := by
  unfold decodeFrameOut at h
  split at h
  · exact .inl ‹_›
  split at h
  · exact .inr (.inl ‹_›)
  split at h
  · split at h
    · next hp _ r g b cl ch hd =>
      exact .inr (.inr ⟨r, g, b, cl, ch, by rw [← List.take_append_drop 9 bs, hp, hd]⟩)
    · cases h
  · cases h

/-- No request frame read backwards is one. -/
theorem decodeFrameOut_one_reading {bs : List Byte} {i : Instr} (h : decodeFrameOut bs = .ok i) (j : Instr) :
    decodeFrameOut bs.reverse ≠ .ok j := by
  intro h'
  rcases decodeFrameOut_ok h with rfl | rfl | ⟨r, g, b, cl, ch, rfl⟩ <;>
    rcases decodeFrameOut_ok h' with e | e | ⟨r', g', b', cl', ch', e⟩ <;>
    simp [reqRdlatestBytes, reqRdflashBytes, reqSetledPrefix] at e

/-- No first seven bytes of a response read backwards are those of one. -/
theorem decodeFrameIn_one_reading {bs : List Byte} {i : Instr} (h : decodeFrameIn bs = .ok i) (hl : bs.length = 7)
    (j : Instr) : decodeFrameIn bs.reverse ≠ .ok j := by
  match bs, hl with
  | [h0, h1, l0, l1, c, a0, a1], _ =>
    intro h'
    simp [decodeFrameIn] at h h'
    split at h <;> split at h' <;> simp_all

end Sys2Proof
end

