-- ==== Sys2Proof/Laws/State.lean ====
section
/-! SUPPORT. One lemma per field per update of State, and what a returning operation leaves. -/

namespace Sys2Proof.Machine

@[simp] theorem State.setReg_reg (s : State) (v : Word) : (s.setReg v).reg = v := rfl
@[simp] theorem State.setReg_buf (s : State) (v : Word) : (s.setReg v).buf = s.buf := rfl
@[simp] theorem State.setReg_pending (s : State) (v : Word) : (s.setReg v).pending = s.pending := rfl
@[simp] theorem State.setReg_out (s : State) (v : Word) : (s.setReg v).out = s.out := rfl

@[simp] theorem State.setBuf_reg (s : State) (bs : List Byte) : (s.setBuf bs).reg = s.reg := rfl
@[simp] theorem State.setBuf_buf (s : State) (bs : List Byte) : (s.setBuf bs).buf = bs := rfl
@[simp] theorem State.setBuf_pending (s : State) (bs : List Byte) : (s.setBuf bs).pending = s.pending := rfl
@[simp] theorem State.setBuf_out (s : State) (bs : List Byte) : (s.setBuf bs).out = s.out := rfl

@[simp] theorem State.setOut_reg (s : State) (r : Result) : (s.setOut r).reg = s.reg := rfl
@[simp] theorem State.setOut_buf (s : State) (r : Result) : (s.setOut r).buf = s.buf := rfl
@[simp] theorem State.setOut_pending (s : State) (r : Result) : (s.setOut r).pending = s.pending := rfl
@[simp] theorem State.setOut_out (s : State) (r : Result) : (s.setOut r).out = r := rfl

/-- Two states with the same four fields are the same state. -/
theorem State.ext_fields {s t : State} (hbuf : s.buf = t.buf) (hreg : s.reg = t.reg) (hpending : s.pending = t.pending)
    (hout : s.out = t.out) : s = t := by
  cases s; cases t; simp_all

/-- Everything a returning operation does. -/
theorem ret_eq_next {r : Result} {s t : State} :
    ret r s = .next t ↔ t.buf = s.buf ∧ t.reg = s.reg ∧ t.pending = s.pending ∧ t.out = r := by
  constructor
  · intro h
    cases h
    exact ⟨rfl, rfl, rfl, rfl⟩
  · rintro ⟨h1, h2, h3, h4⟩
    exact congrArg Host.Outcome.next (State.ext_fields h1.symm h2.symm h3.symm h4.symm)

/-- A returning operation never stops the machine. -/
theorem ret_ne_refused (r : Result) (s : State) (why : Refusal) : ret r s ≠ .refused why := by
  intro h; cases h

theorem ret_ne_fault (r : Result) (s : State) (f : Fault) : ret r s ≠ .fault f := by
  intro h; cases h

end Sys2Proof.Machine
end

