-- ==== Sys2Proof/Laws/Ops.lean ====
section
/-! SUPPORT. For each shared operation of the LE unit and the CODEC, what it can do (spec/41_le_datapath.md R118;
spec/42_frame_build.md R130; spec/43_frame_parse.md R144, R165). -/

namespace Sys2Proof.Machine

/-- Everything an UNPK operation can do: the value of the bytes, or the recorded fault; it always returns. -/
theorem unpack_cases (bs : List Byte) (off n : Nat) (form : Nat → Result) (s : State) :
    (off + n ≤ bs.length ∧ unpack bs off n form s = ret (form (fromLe (slice bs off (off + n)))) s) ∨
    (bs.length < off + n ∧ unpack bs off n form s = ret (.fault (.fieldOutOfRange off n)) s) := by
  rcases memRead_cases bs off n with ⟨h, hr⟩ | ⟨h, hr⟩
  · exact .inl ⟨h, by simp [unpack, hr]⟩
  · exact .inr ⟨h, by simp [unpack, hr, raiseFault]⟩

/-- Everything a builder does. -/
theorem buildFrame_eq_next {body : List Byte} {s t : State} :
    buildFrame body s = .next t ↔
      t.buf = s.buf ∧ t.reg = crc16 body ∧ t.pending = s.pending ∧ t.out = .bytes (sealFrame body) := by
  simp [buildFrame, ret_eq_next]

/-- The checks of a builder's output: the last two bytes are the checksum of the body. -/
theorem verifyChecksum_sealFrame (body : List Byte) :
    verifyChecksum (sealFrame body) = { ok := true, computed := crc16 body, stored := crc16 body } := by
  have hlen : (sealFrame body).length = body.length + 2 := by simp [sealFrame, leWord]
  have hbody : slice (sealFrame body) 0 ((sealFrame body).length - 2) = body := by
    rw [hlen]
    simp [slice, sealFrame]
  have htail : slice (sealFrame body) ((sealFrame body).length - 2) (sealFrame body).length = leWord (crc16 body) := by
    rw [slice, List.take_length, hlen]
    simp [sealFrame]
  have hword : (BitVec.ofNat 16 (fromLe (leWord (crc16 body))) : Word) = crc16 body := by
    apply BitVec.eq_of_toNat_eq
    simpa [leWord, fromLe_le] using (crc16 body).isLt
  simp [verifyChecksum, hbody, htail, hword]

/-- Steps 1 to 3 in the order of R144. -/
theorem shapeError_cases (bs : List Byte) :
    (bs.length < 4 ∧ shapeError bs = some .truncated) ∨
    (4 ≤ bs.length ∧ hasHeader bs = false ∧ shapeError bs = some .badHeader) ∨
    (4 ≤ bs.length ∧ hasHeader bs = true ∧ bs.length ≠ packetSize bs ∧
      shapeError bs = some (.lengthMismatch (packetSize bs) bs.length)) ∨
    (4 ≤ bs.length ∧ hasHeader bs = true ∧ bs.length = packetSize bs ∧ shapeError bs = none) := by
  by_cases h1 : bs.length < 4
  · exact .inl ⟨h1, by simp [shapeError, Config.minScan, h1]⟩
  · cases h2 : hasHeader bs with
    | false => exact .inr (.inl ⟨by omega, rfl, by simp [shapeError, Config.minScan, h1, h2]⟩)
    | true =>
      by_cases h3 : bs.length = packetSize bs
      · exact .inr (.inr (.inr ⟨by omega, rfl, h3, by simp [shapeError, Config.minScan, h1, h2, ← h3]⟩))
      · exact .inr (.inr (.inl ⟨by omega, rfl, h3, by simp [shapeError, Config.minScan, h1, h2, h3]⟩))

/-- Everything a PARSE does to a register: nothing before step 4, the computed checksum from there on. -/
theorem parseFrame_cases (r : Word) (bs : List Byte) :
    (∃ e, shapeError bs = some e ∧ parseFrame r bs = (r, .error e)) ∨
    (shapeError bs = none ∧ (verifyChecksum bs).ok = false ∧
      parseFrame r bs = ((verifyChecksum bs).computed, .error .checksumMismatch)) ∨
    (shapeError bs = none ∧ (verifyChecksum bs).ok = true ∧
      parseFrame r bs = ((verifyChecksum bs).computed, dispatchAddress bs)) := by
  cases h : shapeError bs with
  | some e => exact .inl ⟨e, rfl, by simp [parseFrame, h]⟩
  | none =>
    cases hv : (verifyChecksum bs).ok with
    | false => exact .inr (.inl ⟨rfl, rfl, by simp [parseFrame, h, hv]⟩)
    | true => exact .inr (.inr ⟨rfl, rfl, by simp [parseFrame, h, hv]⟩)

/-- R141: the outcome does not depend on the register. -/
theorem parseFrame_outcome_indep (r r' : Word) (bs : List Byte) : (parseFrame r bs).2 = (parseFrame r' bs).2 := by
  unfold parseFrame
  split <;> rfl

/-- Everything a PARSE does to the state; it always returns. -/
theorem parseOp_eq_next {bs : List Byte} {s t : State} :
    parseOp bs s = .next t ↔
      t.buf = s.buf ∧ t.reg = (parseFrame s.reg bs).1 ∧ t.pending = s.pending ∧
        t.out = .parsed (parseFrame s.reg bs).2 := by
  simp [parseOp, ret_eq_next]

end Sys2Proof.Machine
end

