-- ==== Sys2Proof/Laws/PerInstr.lean ====
section
/-! SUPPORT. The family `Selector`: the request that presents an instruction carries the selector of the
instruction's row of spec/opcode_table.json (R65 to R67, R72, R75, R76). The table's selectors are written out here
once more, from the table's own columns. -/

namespace Sys2Proof.Laws

/-- A row's selector: an 8-bit match under the mask `0xFF`, a whole frame with its variable bytes left open, or the
first seven bytes of a frame with the bytes the mask leaves out left open. -/
inductive Selector where
  | code (m : Nat)
  | wholeFrame (pattern : List (Option Nat))
  | frameHead (pattern : List (Option Nat))

/-- The bytes agree with the pattern, as far as the pattern goes. -/
def agrees : List (Option Nat) → List Byte → Bool
  | [], _ => true
  | _ :: _, [] => false
  | none :: ps, _ :: bs => agrees ps bs
  | some v :: ps, b :: bs => b.toNat == v && agrees ps bs

/-- The request is selected by the row. -/
def Selector.selects : Selector → Request → Bool
  | .code m, .op c _ => c.toNat &&& 0xFF == m
  | .wholeFrame p, .frameOut bs => bs.length == p.length && agrees p bs
  | .frameHead p, .frameIn bs => agrees p bs
  | _, _ => false

/-- The 24 rows of spec/opcode_table.json. -/
def opcodeTable : List (String × Selector) :=
  [("CRC.INIT", .code 0x01), ("CRC.BYTE", .code 0x02), ("CRC.READ", .code 0x03), ("CRC.SUM", .code 0x04),
   ("CRC.VERIFY", .code 0x05), ("UNPK.U8", .code 0x10), ("UNPK.U16", .code 0x11), ("UNPK.I16", .code 0x12),
   ("UNPK.I32", .code 0x13), ("PACK.U8", .code 0x18), ("PACK.U16", .code 0x19), ("BLD.RDLATEST", .code 0x20),
   ("BLD.SETLED", .code 0x21), ("BLD.RDFLASH", .code 0x22), ("PARSE", .code 0x30), ("FEED", .code 0x40),
   ("RX", .code 0x41), ("SYNC.RESET", .code 0x4F)] ++
  [("REQ.RDLATEST", .wholeFrame [some 0x52, some 0x42, some 0x05, some 0x00, some 0x01, some 0x22, some 0x50, some 0xE2,
     some 0xBB]),
   ("REQ.SETLED", .wholeFrame [some 0x52, some 0x42, some 0x0A, some 0x00, some 0x02, some 0x11, some 0x51, some 0x01,
     some 0x00, none, none, none, none, none]),
   ("REQ.RDFLASH", .wholeFrame [some 0x52, some 0x42, some 0x05, some 0x00, some 0x01, some 0x03, some 0x54, some 0xFB,
     some 0x28]),
   ("RSP.LATEST", .frameHead [some 0x52, some 0x42, none, none, none, some 0x22, some 0x50]),
   ("RSP.LED", .frameHead [some 0x52, some 0x42, none, none, none, some 0x11, some 0x51]),
   ("RSP.FLASH", .frameHead [some 0x52, some 0x42, none, none, none, some 0x03, some 0x54])]

namespace Selector

/-- The instruction's encoding is selected by a row with the instruction's mnemonic. -/
def Statement (i : Instr) : Prop := ∃ row ∈ opcodeTable, row.1 = i.mnemonic ∧ row.2.selects (encode i) = true

/-- The row at a place of the table settles the statement. -/
theorem of_row {i : Instr} (n : Nat) (row : String × Selector) (hrow : opcodeTable[n]? = some row)
    (hname : row.1 = i.mnemonic) (hsel : row.2.selects (encode i) = true) : Statement i :=
  ⟨row, List.mem_of_getElem? hrow, hname, hsel⟩

theorem crcInit : Statement .crcInit := of_row 0 _ rfl rfl rfl
theorem crcByte (b : Byte) : Statement (.crcByte b) := of_row 1 _ rfl rfl rfl
theorem crcRead : Statement .crcRead := of_row 2 _ rfl rfl rfl
theorem crcSum (bs : List Byte) : Statement (.crcSum bs) := of_row 3 _ rfl rfl rfl
theorem crcVerify (bs : List Byte) : Statement (.crcVerify bs) := of_row 4 _ rfl rfl rfl
theorem unpkU8 (bs : List Byte) (off : Nat) : Statement (.unpkU8 bs off) := of_row 5 _ rfl rfl rfl
theorem unpkU16 (bs : List Byte) (off : Nat) : Statement (.unpkU16 bs off) := of_row 6 _ rfl rfl rfl
theorem unpkI16 (bs : List Byte) (off : Nat) : Statement (.unpkI16 bs off) := of_row 7 _ rfl rfl rfl
theorem unpkI32 (bs : List Byte) (off : Nat) : Statement (.unpkI32 bs off) := of_row 8 _ rfl rfl rfl
theorem packU8 (v : Byte) : Statement (.packU8 v) := of_row 9 _ rfl rfl rfl
theorem packU16 (v : Word) : Statement (.packU16 v) := of_row 10 _ rfl rfl rfl
theorem bldRdlatest : Statement .bldRdlatest := of_row 11 _ rfl rfl rfl
theorem bldSetled (red green blue : Nat) : Statement (.bldSetled red green blue) := of_row 12 _ rfl rfl rfl
theorem bldRdflash : Statement .bldRdflash := of_row 13 _ rfl rfl rfl
theorem parse (bs : List Byte) : Statement (.parse bs) := of_row 14 _ rfl rfl rfl
theorem feed (chunk : List Byte) : Statement (.feed chunk) := of_row 15 _ rfl rfl rfl
theorem rx (chunk : List Byte) : Statement (.rx chunk) := of_row 16 _ rfl rfl rfl
theorem syncReset : Statement .syncReset := of_row 17 _ rfl rfl rfl
theorem reqRdlatest : Statement .reqRdlatest := of_row 18 _ rfl rfl rfl
theorem reqSetled (red green blue crcLo crcHi : Byte) : Statement (.reqSetled red green blue crcLo crcHi) :=
  of_row 19 _ rfl rfl rfl
theorem reqRdflash : Statement .reqRdflash := of_row 20 _ rfl rfl rfl
theorem rspLatest (length : Word) (command : Byte) (rest : List Byte) : Statement (.rspLatest length command rest) :=
  of_row 21 _ rfl rfl rfl
theorem rspLed (length : Word) (command : Byte) (rest : List Byte) : Statement (.rspLed length command rest) :=
  of_row 22 _ rfl rfl rfl
theorem rspFlash (length : Word) (command : Byte) (rest : List Byte) : Statement (.rspFlash length command rest) :=
  of_row 23 _ rfl rfl rfl

end Selector

end Sys2Proof.Laws
end

