-- ==== Sys2Proof/Laws/Sync.lean ====
section
/-! SUPPORT. What the scan, one iteration and the loop of FEED can do (spec/44_reassembler.md R173 to R177, R182,
R185). -/

namespace Sys2Proof.Machine

/-- The scan finds nothing exactly where no pair stands. -/
theorem findHeader_eq_none_iff (buf : List Byte) :
    findHeader buf = none ↔ ∀ i, ¬(buf[i]? = some Config.hdr0 ∧ buf[i + 1]? = some Config.hdr1) := by
  induction buf with
  | nil => simp [findHeader]
  | cons a rest ih =>
    cases rest with
    | nil => simp [findHeader]
    | cons b rest =>
      by_cases h : a = Config.hdr0 ∧ b = Config.hdr1
      · simp only [findHeader, h, and_self, if_true, reduceCtorEq, false_iff]
        intro hall
        exact hall 0 (by simp)
      · simp only [findHeader, h, if_false, Option.map_eq_none_iff, ih]
        constructor
        · intro hall i
          cases i with
          | zero => simpa using h
          | succ i => simpa using hall i
        · intro hall i
          simpa using hall (i + 1)

/-- The scan finds the least offset at which the pair stands. -/
theorem findHeader_eq_some_iff (buf : List Byte) (i : Nat) :
    findHeader buf = some i ↔
      (buf[i]? = some Config.hdr0 ∧ buf[i + 1]? = some Config.hdr1) ∧
        ∀ j, j < i → ¬(buf[j]? = some Config.hdr0 ∧ buf[j + 1]? = some Config.hdr1) := by
  induction buf generalizing i with
  | nil => simp [findHeader]
  | cons a rest ih =>
    cases rest with
    | nil =>
      simp only [findHeader, reduceCtorEq, false_iff]
      rintro ⟨⟨-, h⟩, -⟩
      simp at h
    | cons b rest =>
      by_cases h : a = Config.hdr0 ∧ b = Config.hdr1
      · simp only [findHeader, h, and_self, if_true, Option.some.injEq]
        constructor
        · rintro rfl
          exact ⟨by simp, by intro j hj; omega⟩
        · rintro ⟨-, hmin⟩
          by_contra hne
          exact hmin 0 (by omega) (by simp)
      · simp only [findHeader, h, if_false, Option.map_eq_some_iff, ih]
        constructor
        · rintro ⟨k, ⟨hk, hmin⟩, rfl⟩
          refine ⟨by simpa using hk, ?_⟩
          intro j hj
          cases j with
          | zero => simpa using h
          | succ j => simpa using hmin j (by omega)
        · rintro ⟨hi, hmin⟩
          cases i with
          | zero => exact absurd (by simpa using hi) h
          | succ i =>
            refine ⟨i, ⟨by simpa using hi, ?_⟩, rfl⟩
            intro j hj
            simpa using hmin (j + 1) (by omega)

/-- A header at offset 0 is what PARSE calls a header. -/
theorem findHeader_eq_some_zero_iff (buf : List Byte) : findHeader buf = some 0 ↔ hasHeader buf = true := by
  cases buf with
  | nil => simp [findHeader, hasHeader, Config.header]
  | cons a rest =>
    cases rest with
    | nil => simp [findHeader, hasHeader, Config.header]
    | cons b rest =>
      by_cases h : a = Config.hdr0 ∧ b = Config.hdr1
      · simp [findHeader, hasHeader, Config.header, h]
      · simp [findHeader, hasHeader, Config.header, h]

/-- Everything one iteration can do, with its guard: the loop test, the no-header exit, the prefix drop, the stall,
the extraction. -/
theorem iteration_cases (buf : List Byte) :
    (buf.length < 4 ∧ iteration buf = .exit buf) ∨
    (4 ≤ buf.length ∧ findHeader buf = none ∧ iteration buf = .exit (keepSplitHeader buf)) ∨
    (∃ i, 4 ≤ buf.length ∧ findHeader buf = some (i + 1) ∧ iteration buf = .dropPrefix (buf.drop (i + 1))) ∨
    (4 ≤ buf.length ∧ findHeader buf = some 0 ∧ buf.length < packetSize buf ∧ iteration buf = .exit buf) ∨
    (4 ≤ buf.length ∧ findHeader buf = some 0 ∧ packetSize buf ≤ buf.length ∧
      iteration buf = .yieldFrame (buf.take (packetSize buf)) (buf.drop (packetSize buf))) := by
  by_cases h : buf.length < 4
  · exact .inl ⟨h, by simp [iteration, Config.minScan, h]⟩
  · have h4 : 4 ≤ buf.length := by omega
    cases hf : findHeader buf with
    | none => exact .inr (.inl ⟨h4, rfl, by simp [iteration, Config.minScan, h, hf]⟩)
    | some i =>
      cases i with
      | succ i => exact .inr (.inr (.inl ⟨i, h4, rfl, by simp [iteration, Config.minScan, h, hf]⟩))
      | zero =>
        by_cases hs : buf.length < packetSize buf
        · exact .inr (.inr (.inr (.inl ⟨h4, rfl, hs, by simp [iteration, Config.minScan, h, hf, hs]⟩)))
        · exact .inr (.inr (.inr (.inr ⟨h4, rfl, by omega, by simp [iteration, Config.minScan, h, hf, hs]⟩)))

/-- R176: a packetSize is at least 4. -/
theorem four_le_packetSize (buf : List Byte) : 4 ≤ packetSize buf := by
  simp [packetSize, Config.lenBias]

/-- R182: an iteration that continues makes the buffer strictly shorter. -/
theorem iteration_shrinks (buf b : List Byte) :
    (iteration buf = .dropPrefix b → b.length < buf.length) ∧
    (∀ f, iteration buf = .yieldFrame f b → b.length < buf.length) := by
  have hp := four_le_packetSize buf
  rcases iteration_cases buf with ⟨-, hi⟩ | ⟨-, -, hi⟩ | ⟨i, h4, -, hi⟩ | ⟨-, -, -, hi⟩ | ⟨h4, -, -, hi⟩ <;>
    rw [hi] <;> constructor <;> intros <;> simp_all
  · next h => rw [← h]; simp; omega
  · next h => rw [← h.2]; simp; omega

/-- R182: one more iteration than the buffer has bytes is enough; more change nothing. -/
theorem feedLoop_fuel (buf : List Byte) : ∀ n m, buf.length < n → buf.length < m → feedLoop n buf = feedLoop m buf := by
  induction h : buf.length using Nat.strong_induction_on generalizing buf with
  | _ k ih =>
    intro n m hn hm
    obtain ⟨n, rfl⟩ := Nat.exists_eq_succ_of_ne_zero (n := n) (by omega)
    obtain ⟨m, rfl⟩ := Nat.exists_eq_succ_of_ne_zero (n := m) (by omega)
    simp only [feedLoop]
    cases hi : iteration buf with
    | exit b => rfl
    | dropPrefix b =>
      have hb := (iteration_shrinks buf b).1 hi
      exact ih b.length (by omega) b rfl n m (by omega) (by omega)
    | yieldFrame f b =>
      have hb := (iteration_shrinks buf b).2 f hi
      have := ih b.length (by omega) b rfl n m (by omega) (by omega)
      simp only [this]

/-- FEED, with any fuel that is enough. -/
theorem feedBytes_eq_feedLoop (buf chunk : List Byte) (n : Nat) (hn : (buf ++ chunk).length < n) :
    feedBytes buf chunk = feedLoop n (buf ++ chunk) :=
  feedLoop_fuel _ _ _ (by omega) hn

/-- The loop from any buffer, as FEED runs it: one iteration, then the loop from what it left. -/
theorem feedBytes_unfold (buf chunk : List Byte) :
    feedBytes buf chunk =
      match iteration (buf ++ chunk) with
      | .exit b => ([], b)
      | .dropPrefix b => feedBytes b []
      | .yieldFrame f b => (f :: (feedBytes b []).1, (feedBytes b []).2) := by
  rw [feedBytes, feedLoop]
  cases hi : iteration (buf ++ chunk) with
  | exit b => rfl
  | dropPrefix b =>
    have hb := (iteration_shrinks _ b).1 hi
    have h := feedBytes_eq_feedLoop b [] (buf ++ chunk).length (by simpa using hb)
    simp only [h, List.append_nil]
  | yieldFrame f b =>
    have hb := (iteration_shrinks _ b).2 f hi
    have h := feedBytes_eq_feedLoop b [] (buf ++ chunk).length (by simpa using hb)
    simp only [h, List.append_nil]

/-- R172: the chunk is appended first, so only the whole buffer matters. -/
theorem feedBytes_append (buf chunk : List Byte) : feedBytes buf chunk = feedBytes (buf ++ chunk) [] := by
  simp [feedBytes]

/-- FEED with both parameters at their normative value is never refused. -/
theorem refusesChunk_normative (held chunk : Nat) : refusesChunk Config.normative held chunk = none := rfl

/-- Everything a FEED does. -/
theorem execFeed_eq_next {chunk : List Byte} {s t : State} :
    execFeed chunk s = .next t ↔
      t.buf = (feedBytes s.buf chunk).2 ∧ t.reg = s.reg ∧ t.pending = s.pending ∧
        t.out = .frames (feedBytes s.buf chunk).1 := by
  simp [execFeed, feedOp, refusesChunk_normative, ret_eq_next]

/-- Everything an RX does. -/
theorem execRx_eq_next {chunk : List Byte} {s t : State} :
    execRx chunk s = .next t ↔
      t.buf = (feedBytes s.buf chunk).2 ∧ t.reg = (parseAll s.reg (feedBytes s.buf chunk).1).1 ∧
        t.pending = s.pending ∧ t.out = .outcomes (parseAll s.reg (feedBytes s.buf chunk).1).2 := by
  simp [execRx, rxOp, refusesChunk_normative, ret_eq_next]

/-- One result per frame. -/
theorem length_parseAll (r : Word) (fs : List (List Byte)) : (parseAll r fs).2.length = fs.length := by
  induction fs generalizing r with
  | nil => rfl
  | cons f fs ih => simp [parseAll, ih]

end Sys2Proof.Machine
end

