-- ==== Sys2Proof/Machine/Text.lean ====
section
/-! DEFINITION. The operation syntax of spec/30_encoding.md R78: `MNEMONIC operand, operand`, byte sequences between
square brackets as two-digit hexadecimal bytes (spec/00_scope.md R12). It only writes an instruction down; the machine
never reads text. R78 shows byte and offset operands in decimal, 16-bit operands in hexadecimal. -/

namespace Sys2Proof.Machine

/-- One hexadecimal digit. -/
def hexDigit (n : Nat) : Char := if n < 10 then Char.ofNat (48 + n) else Char.ofNat (55 + n)

/-- R12: "two-digit hexadecimal bytes". -/
def byteText (b : Byte) : List Char := [hexDigit (b.toNat / 16), hexDigit (b.toNat % 16)]

/-- R12: the bytes of a sequence, "separated by spaces, first byte first". -/
def bytesText : List Byte → List Char
  | [] => []
  | [b] => byteText b
  | b :: bs => byteText b ++ ' ' :: bytesText bs

/-- An operand as R78 writes it. -/
def operandText : Operand → List Char
  | .u8 v => '0' :: 'x' :: byteText v
  | .u16 w => '0' :: 'x' :: (byteText (w.extractLsb' 8 8) ++ byteText (w.extractLsb' 0 8))
  | .nat n => Nat.toDigits 10 n
  | .bytes bs => '[' :: bytesText bs ++ [']']

/-- Operands "one operation per line", separated by a comma and a space. -/
def operandsText : List Operand → List Char
  | [] => []
  | [o] => ' ' :: operandText o
  | o :: os => ' ' :: operandText o ++ ',' :: operandsText os

/-- The text of an instruction. A frame row, for which R78 gives no form, is its mnemonic and its bytes. -/
def instrText (i : Instr) : List Char :=
  match encode i with
  | .op _ operands => i.mnemonic.toList ++ operandsText operands
  | .frameOut bs => i.mnemonic.toList ++ operandsText [.bytes bs]
  | .frameIn bs => i.mnemonic.toList ++ operandsText [.bytes bs]

end Sys2Proof.Machine
end

