-- ==== Sys2Proof/Tests/Slice0.lean ====
section
/-! SUPPORT. Small tests of single steps. Every expected value is copied from spec/95_test_vectors.md (its vector
numbers stand in the comments) or from the rule named; and, for every statement with hypotheses, a state and operands
that meet them together. -/

set_option Elab.async false

namespace Sys2Proof.Tests

open Sys2Proof.Machine Sys2Proof.Reference

/-! ### Helpers -/

/-- A small state: a buffer and a register, nothing pending, nothing returned. -/
def at_ (buf : List Byte) (reg : Word) : State := { State.reset with buf := buf, reg := reg }

/-- A whole answer, made comparable. -/
def seen : Answer → Option (List Byte × Word × Result)
  | .next t => some (t.buf, t.reg, t.out)
  | .fault _ => none
  | .refused _ => none

/-- The refusal of an answer. -/
def why : Answer → Option Refusal
  | .refused r => some r
  | .fault _ => none
  | .next _ => none

/-- What the decoder gives. -/
def decoded (r : Request) : Option Instr :=
  match decode r with
  | .ok i => some i
  | .error _ => none

/-- Frame A of 95_test_vectors.md. -/
def frameA : List Byte :=
  [0x52#8, 0x42#8, 0x1A#8, 0x00#8, 0x00#8, 0x22#8, 0x50#8, 0x01#8, 0x64#8, 0x00#8, 0x88#8, 0x13#8, 0xC8#8, 0x00#8, 0x02#8,
   0x76#8, 0x0F#8, 0x00#8, 0xD7#8, 0x11#8, 0x0C#8, 0x00#8, 0xC2#8, 0x01#8, 0x64#8, 0x1B#8, 0xC3#8, 0x07#8, 0x29#8, 0x13#8]

/-- The reading of frame A (T1). -/
def readingA : SensorReading :=
  { sequenceNumber := ⟨1, 1⟩, temperature := ⟨100, 100⟩, humidity := ⟨5000, 100⟩, ambientLight := ⟨200, 1⟩,
    pressure := ⟨1013250, 1000⟩, noise := ⟨4567, 100⟩, etvoc := ⟨12, 1⟩, eco2 := ⟨450, 1⟩,
    discomfortIndex := ⟨7012, 100⟩, heatStroke := ⟨1987, 100⟩ }

/-- Frames S1 and S2 of 95_test_vectors.md. -/
def frameS1 : List Byte := [0x52#8, 0x42#8, 0x06#8, 0x00#8, 0x02#8, 0x11#8, 0x51#8, 0x00#8, 0xCA#8, 0xA1#8]
def frameS2 : List Byte := [0x52#8, 0x42#8, 0x06#8, 0x00#8, 0x01#8, 0x03#8, 0x54#8, 0x01#8, 0xA8#8, 0x70#8]

/-! ### Well-formedness: each check refuses an ill-formed term -/

theorem test_wf_verify_one_byte : (Instr.crcVerify [0xAA#8]).wf = false := by decide +kernel
theorem test_wf_verify_two_bytes : (Instr.crcVerify [0xFF#8, 0xFF#8]).wf = true := by decide +kernel
theorem test_wf_red_256 : (Instr.bldSetled 256 0 0).wf = false := by decide +kernel
theorem test_wf_green_256 : (Instr.bldSetled 0 256 0).wf = false := by decide +kernel
theorem test_wf_blue_256 : (Instr.bldSetled 0 0 256).wf = false := by decide +kernel
theorem test_wf_channels_255 : (Instr.bldSetled 255 255 255).wf = true := by decide +kernel
theorem test_wf_request_checksum_swapped : (Instr.reqSetled 1 2 3 0x64#8 0x83#8).wf = false := by decide +kernel
theorem test_wf_request_checksum : (Instr.reqSetled 1 2 3 0x83#8 0x64#8).wf = true := by decide +kernel

/-! ### Decoding: one word of every row, written from R65 to R69, R72 and R75 -/

theorem test_decode_crcInit : decoded (.op 0b00000001#8 []) = some .crcInit := by decide +kernel
theorem test_decode_crcByte : decoded (.op 0b00000010#8 [.u8 0x52#8]) = some (.crcByte 0x52#8) := by decide +kernel
theorem test_decode_crcRead : decoded (.op 0b00000011#8 []) = some .crcRead := by decide +kernel
theorem test_decode_crcSum : decoded (.op 0b00000100#8 [.bytes []]) = some (.crcSum []) := by decide +kernel
theorem test_decode_crcVerify :
    decoded (.op 0b00000101#8 [.bytes [0xFF#8, 0xFF#8]]) = some (.crcVerify [0xFF#8, 0xFF#8]) := by decide +kernel
theorem test_decode_unpkU8 :
    decoded (.op 0b00010000#8 [.bytes [1#8], .nat 5]) = some (.unpkU8 [1#8] 5) := by decide +kernel
theorem test_decode_unpkU16 :
    decoded (.op 0b00010001#8 [.bytes [1#8], .nat 5]) = some (.unpkU16 [1#8] 5) := by decide +kernel
theorem test_decode_unpkI16 :
    decoded (.op 0b00010010#8 [.bytes [1#8], .nat 5]) = some (.unpkI16 [1#8] 5) := by decide +kernel
theorem test_decode_unpkI32 :
    decoded (.op 0b00010011#8 [.bytes [1#8], .nat 5]) = some (.unpkI32 [1#8] 5) := by decide +kernel
theorem test_decode_packU8 : decoded (.op 0b00011000#8 [.u8 0x52#8]) = some (.packU8 0x52#8) := by decide +kernel
theorem test_decode_packU16 :
    decoded (.op 0b00011001#8 [.u16 0x5022#16]) = some (.packU16 0x5022#16) := by decide +kernel
theorem test_decode_bldRdlatest : decoded (.op 0b00100000#8 []) = some .bldRdlatest := by decide +kernel
theorem test_decode_bldSetled :
    decoded (.op 0b00100001#8 [.nat 1, .nat 2, .nat 3]) = some (.bldSetled 1 2 3) := by decide +kernel
theorem test_decode_bldRdflash : decoded (.op 0b00100010#8 []) = some .bldRdflash := by decide +kernel
theorem test_decode_parse : decoded (.op 0b00110000#8 [.bytes [7#8]]) = some (.parse [7#8]) := by decide +kernel
theorem test_decode_feed : decoded (.op 0b01000000#8 [.bytes [7#8]]) = some (.feed [7#8]) := by decide +kernel
theorem test_decode_rx : decoded (.op 0b01000001#8 [.bytes [7#8]]) = some (.rx [7#8]) := by decide +kernel
theorem test_decode_syncReset : decoded (.op 0b01001111#8 []) = some .syncReset := by decide +kernel
/-- The bit pattern of R65. -/
theorem test_decode_reqRdlatest :
    decoded (.frameOut [0b01010010#8, 0b01000010#8, 0b00000101#8, 0b00000000#8, 0b00000001#8, 0b00100010#8,
      0b01010000#8, 0b11100010#8, 0b10111011#8]) = some .reqRdlatest := by decide +kernel
/-- The bit pattern of R66 with the bytes of vector V31f. -/
theorem test_decode_reqSetled :
    decoded (.frameOut [0b01010010#8, 0b01000010#8, 0b00001010#8, 0b00000000#8, 0b00000010#8, 0b00010001#8,
      0b01010001#8, 0b00000001#8, 0b00000000#8, 0x01#8, 0x02#8, 0x03#8, 0x83#8, 0x64#8]) =
      some (.reqSetled 0x01#8 0x02#8 0x03#8 0x83#8 0x64#8) := by decide +kernel
/-- The bit pattern of R67. -/
theorem test_decode_reqRdflash :
    decoded (.frameOut [0b01010010#8, 0b01000010#8, 0b00000101#8, 0b00000000#8, 0b00000001#8, 0b00000011#8,
      0b01010100#8, 0b11111011#8, 0b00101000#8]) = some .reqRdflash := by decide +kernel
/-- R72: the first seven bytes select; length and command do not. -/
theorem test_decode_rspLatest :
    decoded (.frameIn [0x52#8, 0x42#8, 0x1A#8, 0x00#8, 0x00#8, 0x22#8, 0x50#8, 0x01#8]) =
      some (.rspLatest 26#16 0#8 [1#8]) := by decide +kernel
theorem test_decode_rspLed :
    decoded (.frameIn frameS1) = some (.rspLed 6#16 2#8 [0x00#8, 0xCA#8, 0xA1#8]) := by decide +kernel
theorem test_decode_rspFlash :
    decoded (.frameIn frameS2) = some (.rspFlash 6#16 1#8 [0x01#8, 0xA8#8, 0x70#8]) := by decide +kernel
/-- R72: address bytes in the wrong order select nothing. -/
theorem test_decode_no_response_kind :
    decoded (.frameIn [0x52#8, 0x42#8, 0x06#8, 0x00#8, 0x01#8, 0x50#8, 0x22#8]) = none := by decide +kernel
/-- R77: an unassigned code between two assigned ones. -/
theorem test_decode_unassigned : decoded (.op 0x06#8 []) = none := by decide +kernel
/-- The opcode table's words, numbered either way (R14, R61). -/
theorem test_table_words :
    decodeTableWord 8 0x4F = some .syncReset ∧
    decodeTableWord 56 0x52420000002250 = some (.rspLatest 0#16 0#8 []) ∧
    decodeTableWord 56 0x54030000004252 = some (.rspFlash 0#16 0#8 []) ∧
    decodeTableWord 72 0x52420500010354FB28 = some .reqRdflash := by decide +kernel
/-- Log entry 10: a REQ.SETLED frame whose checksum bytes are `42 52` has the header at both ends of its number, and
reads the same whichever way it is numbered (R66, R92: the checksum of the first twelve bytes is `0x5242`). -/
theorem test_table_word_header_at_both_ends :
    decodeTableWord 112 0x52420A00021151010018C1004252 = some (.reqSetled 0x18#8 0xC1#8 0x00#8 0x42#8 0x52#8) ∧
    decodeTableWord 112 0x524200C1180001511102000A4252 = some (.reqSetled 0x18#8 0xC1#8 0x00#8 0x42#8 0x52#8) ∧
    (Instr.reqSetled 0x18#8 0xC1#8 0x00#8 0x42#8 0x52#8).wf = true := by decide +kernel
/-- withFetchWord makes the very next step run the word's operation. -/
theorem test_fetch_word_runs_next :
    seen (step ((at_ [] 0x1234#16).withFetchWord 8 0x01)) = some ([], 0xFFFF#16, .none) := by decide +kernel

/-! ### The CRC unit (V7, V15, V19, V23, V27 to V30) -/

theorem test_crc_step : crcStep 0xFFAD#16 = 0xDFD7#16 ∧ crcStep 0xFFFE#16 = 0x7FFF#16 := by decide +kernel
theorem test_crc_byte : crcByte 0xFFFF#16 0x52#8 = 0xBD3E#16 ∧ crcByte 0x0000#16 0x80#8 = 0xA001#16 := by decide +kernel
theorem test_crc_digits : crc16 [0x31#8, 0x32#8, 0x33#8, 0x34#8, 0x35#8, 0x36#8, 0x37#8, 0x38#8, 0x39#8] = 0x4B37#16 := by
  decide +kernel
theorem test_crcInit : seen (exec .crcInit (at_ [7#8] 0x1234#16)) = some ([7#8], 0xFFFF#16, .none) := by decide +kernel
theorem test_crcByte : seen (exec (.crcByte 0x42#8) (at_ [] 0xBD3E#16)) = some ([], 0xE1BC#16, .none) := by decide +kernel
theorem test_crcRead : seen (exec .crcRead (at_ [] 0xE1BC#16)) = some ([], 0xE1BC#16, .u16 0xE1BC#16) := by decide +kernel
theorem test_crcSum :
    seen (exec (.crcSum [0x52#8, 0x42#8, 0x05#8, 0x00#8, 0x01#8, 0x03#8, 0x54#8]) (at_ [] 0#16)) =
      some ([], 0x28FB#16, .u16 0x28FB#16) := by decide +kernel
theorem test_crcVerify_mismatch :
    seen (exec (.crcVerify [0x52#8, 0x42#8, 0x05#8, 0x00#8, 0x01#8, 0x22#8, 0x50#8, 0xE3#8, 0xBB#8]) (at_ [] 0#16)) =
      some ([], 0xBBE2#16, .verdict ⟨false, 0xBBE2#16, 0xBBE3#16⟩) := by decide +kernel
theorem test_crcVerify_refused : why (exec (.crcVerify [0xAA#8]) State.reset) = some .verifyTooShort := by decide +kernel

/-! ### The LE unit (V41, V43, V47, V53, V57, V60, V61, V65) -/

theorem test_unpkU8 : seen (exec (.unpkU8 [0xFF#8] 0) State.reset) = some ([], 0xFFFF#16, .u8 255#8) := by decide +kernel
theorem test_unpkU8_past_end :
    seen (exec (.unpkU8 [0xAA#8] 1) State.reset) = some ([], 0xFFFF#16, .fault (.fieldOutOfRange 1 1)) := by decide +kernel
theorem test_unpkU16_odd_offset :
    seen (exec (.unpkU16 [1#8, 2#8, 3#8] 1) State.reset) = some ([], 0xFFFF#16, .u16 0x0302#16) := by decide +kernel
theorem test_unpkI16_negative :
    seen (exec (.unpkI16 [0xF3#8, 0xFD#8] 0) State.reset) = some ([], 0xFFFF#16, .i16 (-525)) := by decide +kernel
theorem test_unpkI32_least :
    seen (exec (.unpkI32 [0#8, 0#8, 0#8, 0x80#8] 0) State.reset) = some ([], 0xFFFF#16, .i32 (-2147483648)) := by
  decide +kernel
theorem test_unpkI32_past_end :
    seen (exec (.unpkI32 [1#8, 2#8, 3#8] 0) State.reset) =
      some ([], 0xFFFF#16, .fault (.fieldOutOfRange 0 4)) := by decide +kernel
theorem test_packU8 : seen (exec (.packU8 0x52#8) State.reset) = some ([], 0xFFFF#16, .bytes [0x52#8]) := by decide +kernel
theorem test_packU16 :
    seen (exec (.packU16 0xBBE2#16) State.reset) = some ([], 0xFFFF#16, .bytes [0xE2#8, 0xBB#8]) := by decide +kernel

/-! ### The builders and the request rows (V31g, V32, V33, V34) -/

theorem test_bldRdlatest :
    seen (exec .bldRdlatest (at_ [9#8] 0#16)) = some ([9#8], 0xBBE2#16, .bytes reqRdlatestBytes) := by decide +kernel
theorem test_bldSetled_order :
    seen (exec (.bldSetled 0x12 0x34 0x56) State.reset) = some ([], 0x3EA5#16, .bytes [0x52#8, 0x42#8, 0x0A#8, 0x00#8,
      0x02#8, 0x11#8, 0x51#8, 0x01#8, 0x00#8, 0x12#8, 0x34#8, 0x56#8, 0xA5#8, 0x3E#8]) := by decide +kernel
theorem test_bldSetled_256 : why (exec (.bldSetled 256 0 0) State.reset) = some .channelOutOfRange := by decide +kernel
theorem test_bldRdflash :
    seen (exec .bldRdflash State.reset) = some ([], 0x28FB#16, .bytes reqRdflashBytes) := by decide +kernel
theorem test_reqRdlatest :
    seen (exec .reqRdlatest State.reset) = some ([], 0xBBE2#16, .bytes reqRdlatestBytes) := by decide +kernel
theorem test_reqSetled :
    seen (exec (.reqSetled 1#8 2#8 3#8 0x83#8 0x64#8) State.reset) = some ([], 0x6483#16, .bytes [0x52#8, 0x42#8, 0x0A#8,
      0x00#8, 0x02#8, 0x11#8, 0x51#8, 0x01#8, 0x00#8, 0x01#8, 0x02#8, 0x03#8, 0x83#8, 0x64#8]) := by decide +kernel
theorem test_reqRdflash :
    seen (exec .reqRdflash State.reset) = some ([], 0x28FB#16, .bytes reqRdflashBytes) := by decide +kernel

/-! ### PARSE and the response rows (V70, V77, V78, V80, V94, V96) -/

theorem test_parse_A :
    seen (exec (.parse frameA) State.reset) = some ([], 0x1329#16, .parsed (.decoded (.sensor readingA))) := by decide +kernel
theorem test_parse_six_bytes :
    seen (exec (.parse [0x52#8, 0x42#8, 0x02#8, 0x00#8, 0xB1#8, 0xE8#8]) State.reset) =
      some ([], 0xE8B1#16, .parsed (.error (.outOfRange (.fieldOutOfRange 5 2)))) := by decide +kernel
theorem test_rspLatest :
    seen (exec (.rspLatest 26#16 0#8 (frameA.drop 7)) State.reset) =
      some ([], 0x1329#16, .parsed (.decoded (.sensor readingA))) := by decide +kernel
theorem test_rspLatest_short :
    seen (exec (.rspLatest 0#16 0#8 []) State.reset) =
      some ([], 0xFFFF#16, .parsed (.error (.lengthMismatch 4 7))) := by decide +kernel
theorem test_rspLed :
    seen (exec (.rspLed 6#16 2#8 [0x00#8, 0xCA#8, 0xA1#8]) State.reset) =
      some ([], 0xA1CA#16, .parsed (.decoded (.status 0#8))) := by decide +kernel
theorem test_rspFlash_surplus :
    seen (exec (.rspFlash 8#16 1#8 [0xFF#8, 0xEE#8, 0xDD#8, 0x13#8, 0xA1#8]) State.reset) =
      some ([], 0xA113#16, .parsed (.decoded (.status 0xFF#8))) := by decide +kernel
/-- T1: "`temperature == 1.00`". -/
theorem test_temperature_is_one : readingA.temperature.value = 1 := by norm_num [readingA, Scaled.value]

/-! ### The SYNC unit (V117, V120, V123, V131, P2) -/

theorem test_feed_keeps_last_52 :
    seen (exec (.feed [0x52#8, 0x52#8, 0x52#8, 0x52#8]) State.reset) = some ([0x52#8], 0xFFFF#16, .frames []) := by
  decide +kernel
theorem test_feed_two_frames :
    seen (exec (.feed [0x52#8, 0x42#8, 0#8, 0#8, 0x52#8, 0x42#8, 0#8, 0#8, 0x52#8]) State.reset) =
      some ([0x52#8], 0xFFFF#16, .frames [[0x52#8, 0x42#8, 0#8, 0#8], [0x52#8, 0x42#8, 0#8, 0#8]]) := by decide +kernel
theorem test_rx_garbage_two_frames_and_a_start :
    seen (exec (.rx ([0x00#8, 0xFF#8, 0x13#8] ++ frameS2 ++ frameS1 ++ [0x52#8, 0x42#8, 0x1A#8])) State.reset) =
      some ([0x52#8, 0x42#8, 0x1A#8], 0xA1CA#16, .outcomes [.decoded (.status 1#8), .decoded (.status 0#8)]) := by
  decide +kernel
/-- P5 (b): a false header swallows the first of two frames (R240). -/
theorem test_feed_false_header :
    seen (exec (.feed ([0x52#8, 0x42#8, 0x08#8, 0x00#8] ++ frameS2 ++ frameS2)) State.reset) =
      some ([], 0xFFFF#16, .frames [[0x52#8, 0x42#8, 0x08#8, 0x00#8, 0x52#8, 0x42#8, 0x06#8, 0x00#8, 0x01#8, 0x03#8, 0x54#8,
        0x01#8], frameS2]) := by decide +kernel
theorem test_syncReset :
    seen (exec .syncReset (at_ [0x52#8, 0x42#8, 0x1A#8, 0x00#8, 0x00#8, 0x22#8] 0x1234#16)) =
      some ([], 0x1234#16, .none) := by decide +kernel
/-- R191 on the stream of V123. -/
theorem test_detector :
    (Detector.hunt.run [0x52#8, 0x42#8, 0#8, 0#8, 0xAA#8, 0x52#8, 0x42#8, 1#8, 0#8, 9#8]).1 =
      [[0x52#8, 0x42#8, 0#8, 0#8], [0x52#8, 0x42#8, 1#8, 0#8, 9#8]] := by decide +kernel
/-- R24, D5: a finite capacity, or a finite chunk size, refuses what would pass it. -/
theorem test_finite_cap :
    refusesChunk { bufCap := some 65539, maxChunk := none } 65538 2 = some .bufCapExceeded ∧
    refusesChunk { bufCap := some 65539, maxChunk := none } 65538 1 = none ∧
    refusesChunk { bufCap := none, maxChunk := some 4 } 0 5 = some .chunkTooLong := by decide
/-- R78's own examples. -/
theorem test_text_setled : instrText (.bldSetled 1 2 3) = "BLD.SETLED 1, 2, 3".toList := by decide +kernel
theorem test_text_feed : instrText (.feed [0x52#8, 0x42#8, 0x05#8]) = "FEED [52 42 05]".toList := by decide +kernel

/-! ### Witnesses: a state and operands that meet the hypotheses of each statement together -/

/-- The hypotheses of the PARSE statements on a concrete frame: its shape and its checksum. -/
theorem shape_A : FrameShape frameA := ⟨0x1A#8, 0x00#8, frameA.drop 4, rfl, by decide⟩
theorem checksum_A : ChecksumRight frameA := ⟨frameA.take 28, 0x29#8, 0x13#8, rfl, by decide +kernel⟩
theorem shape_S1 : FrameShape frameS1 := ⟨0x06#8, 0x00#8, frameS1.drop 4, rfl, by decide⟩
theorem shape_S2 : FrameShape frameS2 := ⟨0x06#8, 0x00#8, frameS2.drop 4, rfl, by decide⟩
theorem checksum_S1 : ChecksumRight frameS1 := ⟨frameS1.take 8, 0xCA#8, 0xA1#8, rfl, by decide +kernel⟩
theorem checksum_S2 : ChecksumRight frameS2 := ⟨frameS2.take 8, 0xA8#8, 0x70#8, rfl, by decide +kernel⟩

/-- V104, 28 bytes: the shortest sensor frame that decodes. -/
def frame28 : List Byte :=
  [0x52#8, 0x42#8, 0x18#8, 0x00#8, 0x01#8, 0x22#8, 0x50#8, 0x01#8, 0x64#8, 0x00#8, 0x88#8, 0x13#8, 0xC8#8, 0x00#8, 0x02#8,
   0x76#8, 0x0F#8, 0x00#8, 0xD7#8, 0x11#8, 0x0C#8, 0x00#8, 0xC2#8, 0x01#8, 0x64#8, 0x1B#8, 0x37#8, 0x5A#8]
/-- V103, 27 bytes: the longest sensor frame that does not. -/
def frame27 : List Byte :=
  [0x52#8, 0x42#8, 0x17#8, 0x00#8, 0x01#8, 0x22#8, 0x50#8, 0x01#8, 0x64#8, 0x00#8, 0x88#8, 0x13#8, 0xC8#8, 0x00#8, 0x02#8,
   0x76#8, 0x0F#8, 0x00#8, 0xD7#8, 0x11#8, 0x0C#8, 0x00#8, 0xC2#8, 0x01#8, 0x64#8, 0xC2#8, 0x87#8]
/-- V97, 8 bytes: one of the shortest frames with a status address. -/
def frame8 : List Byte := [0x52#8, 0x42#8, 0x04#8, 0x00#8, 0x81#8, 0x03#8, 0x54#8, 0xC7#8]
/-- V95, 7 bytes: a shortest frame with an address. -/
def frame7 : List Byte := [0x52#8, 0x42#8, 0x03#8, 0x00#8, 0x01#8, 0xB8#8, 0x74#8]
/-- The six bytes of V94. -/
def frame6 : List Byte := [0x52#8, 0x42#8, 0x02#8, 0x00#8, 0xB1#8, 0xE8#8]

theorem witness_StepRunsTheDecodedOperation :
    ({ State.reset with pending := [encode .crcRead] } : State).pending = encode .crcRead :: [] ∧
    decode (encode .crcRead) = .ok .crcRead ∧ State.reset.pending = [] := ⟨rfl, rfl, rfl⟩
theorem witness_EncodeOfDecodeIsTheRequest :
    decode (.op 0x02#8 [.u8 0xFF#8]) = .ok (.crcByte 0xFF#8) ∧
    decode (.frameOut reqRdflashBytes) = .ok .reqRdflash ∧
    decode (.frameIn frame7) = .error .notAResponseFrame ∧
    decode (.frameIn frame8) = .ok (.rspFlash 4#16 0x81#8 [0xC7#8]) := ⟨rfl, rfl, rfl, rfl⟩
theorem witness_UnassignedCodesAreRefused :
    0xFF#8 ∉ [0x01#8, 0x02#8, 0x03#8, 0x04#8, 0x05#8, 0x10#8, 0x11#8, 0x12#8, 0x13#8, 0x18#8, 0x19#8, 0x20#8, 0x21#8,
      0x22#8, 0x30#8, 0x40#8, 0x41#8, 0x4F#8] ∧
    ({ State.reset with pending := [.op 0xFF#8 [.nat 1]] } : State).pending = .op 0xFF#8 [.nat 1] :: [] :=
  ⟨by decide, rfl⟩
theorem witness_CrcVerifyComparesTheTrailingBytes :
    [0xAA#8].length < 2 ∧ ([0x52#8] ++ [0xFF#8, 0x00#8] : List Byte).length = 3 := by decide
theorem witness_EverySingleByteChangeIsSeen : (0x52#8 : Byte) ≠ 0x53#8 ∧
    crc16 [0x52#8, 0x42#8] = 0xE1BC#16 ∧ crc16 ([0x53#8] ++ [0x42#8]) ≠ 0xE1BC#16 := by decide +kernel
theorem witness_UnpackPastTheEndRecordsTheFault :
    ([1#8, 2#8, 3#8] : List Byte).length < 3 + 1 ∧ ([1#8, 2#8, 3#8] : List Byte).length < 2 + 2 ∧
    ([1#8, 2#8, 3#8] : List Byte).length < 0 + 4 := by decide
theorem witness_UnpackOfPackIsTheValue :
    ∃ t u, exec (.packU8 0xFF#8) State.reset = .next t ∧ t.out = .bytes [0xFF#8] ∧
      exec (.packU16 0x5403#16) State.reset = .next u ∧ u.out = .bytes (leWord 0x5403#16) :=
  ⟨_, _, rfl, rfl, rfl, rfl⟩
theorem witness_MixedWidthReadsAreConsistent :
    memRead [1#8, 2#8, 3#8, 4#8] 2 2 = .ok 0x0403 ∧ memRead [1#8, 2#8, 3#8, 4#8] 0 4 = .ok 0x04030201 := ⟨rfl, rfl⟩
theorem witness_SignConversionIsABijection :
    0 < 16 ∧ 32768 < 2 ^ 16 ∧ sext 16 32768 = -32768 ∧ -(2 : Int) ^ 15 ≤ -32768 ∧ (-32768 : Int) < 2 ^ 15 := by decide
theorem witness_SetLedBuildsFourteenBytes : 255 < 256 ∧ 0 < 256 := by decide
theorem witness_ChannelOutOfRangeIsRefused : 256 ≤ 0 ∨ 256 ≤ 256 ∨ 256 ≤ 255 := by decide
theorem witness_RequestRowsAreTheBuiltFrames :
    u16 0x83#8 0x64#8 = crc16 (setLedTwelve 1#8 2#8 3#8) ∧ u16 0x64#8 0x83#8 ≠ crc16 (setLedTwelve 1#8 2#8 3#8) := by
  decide +kernel
theorem witness_BuilderOutputsAreWellFormed :
    ∃ t, exec .bldRdlatest State.reset = .next t ∧ t.out = .bytes (sealFrame rdLatestBody) := ⟨_, rfl, rfl⟩
/-- One witness for each clause: 3 bytes; a wrong second byte in 4; one byte short; a checksum byte off by one. -/
theorem witness_ParseReportsTheFirstFailingCheck :
    ([0x52#8, 0x42#8, 0x05#8] : List Byte).length < 4 ∧
    (4 ≤ ([0x52#8, 0x43#8, 0#8, 0#8] : List Byte).length ∧ byteAt [0x52#8, 0x43#8, 0#8, 0#8] 1 ≠ 0x42#8) ∧
    (4 ≤ (frameA.take 29).length ∧ byteAt (frameA.take 29) 0 = 0x52#8 ∧ byteAt (frameA.take 29) 1 = 0x42#8 ∧
      (frameA.take 29).length ≠ (u16 (byteAt (frameA.take 29) 2) (byteAt (frameA.take 29) 3)).toNat + 4) ∧
    FrameShape [0x52#8, 0x42#8, 0#8, 0#8] ∧ ¬ ChecksumRight [0x52#8, 0x42#8, 0#8, 0#8] := by
  refine ⟨by decide, by decide, by decide, ⟨0#8, 0#8, [], rfl, by decide⟩, ?_⟩
  rintro ⟨covered, lo, hi, h, hc⟩
  rcases covered with _ | ⟨a, _ | ⟨b, _ | ⟨c, tail⟩⟩⟩ <;> simp at h
  case cons.cons.nil =>
    obtain ⟨rfl, rfl, rfl, rfl⟩ := h
    exact absurd hc (by decide +kernel)
  case cons.cons.cons =>
    have hlen := congrArg List.length h.2.2.2
    simp at hlen
theorem witness_ParseDecodesTheSensorReading :
    FrameShape frame28 ∧ ChecksumRight frame28 ∧ 28 ≤ frame28.length ∧ byteAt frame28 5 = 0x22#8 ∧
      byteAt frame28 6 = 0x50#8 :=
  ⟨⟨0x18#8, 0x00#8, frame28.drop 4, rfl, by decide⟩, ⟨frame28.take 26, 0x37#8, 0x5A#8, rfl, by decide +kernel⟩,
    by decide, rfl, rfl⟩
theorem witness_ShortSensorFrameNamesTheFirstFailingRead :
    FrameShape frame27 ∧ ChecksumRight frame27 ∧ frame27.length < 28 ∧ byteAt frame27 5 = 0x22#8 ∧
      byteAt frame27 6 = 0x50#8 ∧ FrameShape reqRdlatestBytes ∧ ChecksumRight reqRdlatestBytes ∧
      reqRdlatestBytes.length < 28 :=
  ⟨⟨0x17#8, 0x00#8, frame27.drop 4, rfl, by decide⟩, ⟨frame27.take 25, 0xC2#8, 0x87#8, rfl, by decide +kernel⟩,
    by decide, rfl, rfl, ⟨0x05#8, 0x00#8, reqRdlatestBytes.drop 4, rfl, by decide⟩,
    ⟨reqRdlatestBytes.take 7, 0xE2#8, 0xBB#8, rfl, by decide +kernel⟩, by decide⟩
theorem witness_ParseReadsTheStatusByte :
    FrameShape frame8 ∧ ChecksumRight frame8 ∧ byteAt frame8 5 = 0x03#8 ∧ byteAt frame8 6 = 0x54#8 ∧
    FrameShape frameS1 ∧ ChecksumRight frameS1 ∧ byteAt frameS1 5 = 0x11#8 ∧ byteAt frameS1 6 = 0x51#8 :=
  ⟨⟨0x04#8, 0x00#8, frame8.drop 4, rfl, by decide⟩, ⟨frame8.take 6, 0x54#8, 0xC7#8, rfl, by decide +kernel⟩, rfl, rfl,
    shape_S1, checksum_S1, rfl, rfl⟩
theorem witness_ParseReportsTheUnknownAddress :
    FrameShape frame7 ∧ ChecksumRight frame7 ∧ 7 ≤ frame7.length ∧
      u16 (byteAt frame7 5) (byteAt frame7 6) ∉ [0x5022#16, 0x5111#16, 0x5403#16] ∧
      ∃ t, exec (.parse frame7) State.reset = .next t ∧ t.out = .parsed (.error (.unknownAddress 0x74B8#16)) :=
  ⟨⟨0x03#8, 0x00#8, frame7.drop 4, rfl, by decide⟩, ⟨frame7.take 5, 0xB8#8, 0x74#8, rfl, by decide +kernel⟩, by decide,
    by decide, _, rfl, by decide +kernel⟩
theorem witness_OnlyOneShortFrameReachesTheDispatch :
    FrameShape frame6 ∧ ChecksumRight frame6 ∧ frame6.length < 7 :=
  ⟨⟨0x02#8, 0x00#8, frame6.drop 4, rfl, by decide⟩, ⟨frame6.take 4, 0xB1#8, 0xE8#8, rfl, by decide +kernel⟩, by decide⟩
theorem witness_EchoedRequestsParseAsResponses :
    ∃ t u v, exec .bldRdlatest State.reset = .next t ∧ t.out = .bytes (sealFrame rdLatestBody) ∧
      exec .bldRdflash State.reset = .next u ∧ u.out = .bytes (sealFrame rdFlashBody) ∧
      exec (.bldSetled 1 2 255) State.reset = .next v ∧ v.out = .bytes (sealFrame (setLedBody 1#8 2#8 255#8)) :=
  ⟨_, _, _, rfl, rfl, rfl, rfl, rfl, rfl⟩
/-- A run of the loop with an extraction and the loop test's exit. -/
theorem witness_FeedRunsTheLoop : FeedRuns ([] ++ (frameS2 ++ [0x52#8])) [frameS2] [0x52#8] :=
  .extract frameS2 [0x52#8] [] [0x52#8] shape_S2 (.short _ (by decide))
theorem witness_FeedStatements :
    ∃ t, exec (.feed (frameS2 ++ [0xAA#8])) State.reset = .next t ∧ t.out = .frames [frameS2] ∧ t.buf = [0xAA#8] :=
  ⟨_, rfl, by decide +kernel, by decide +kernel⟩
theorem witness_EveryStepKeepsTheBufferSettled :
    BufferSettled (at_ (frameA.take 29) 0#16) ∧
    ∃ t, step ({ at_ (frameA.take 29) 0#16 with pending := [encode .crcRead] } : State) = .next t :=
  ⟨by unfold BufferSettled; decide +kernel, _, rfl⟩
theorem witness_FeedingNothingChangesNothing : BufferSettled (at_ (frameA.take 4) 0#16) := by
  unfold BufferSettled; decide +kernel
theorem witness_FramesDoNotDependOnTheCut :
    ∃ s₁ s₂ t, exec (.feed (frameS2.take 3)) State.reset = .next s₁ ∧ s₁.out = .frames [] ∧
      exec (.feed (frameS2.drop 3)) s₁ = .next s₂ ∧ s₂.out = .frames [frameS2] ∧
      exec (.feed (frameS2.take 3 ++ frameS2.drop 3)) State.reset = .next t ∧ t.out = .frames [frameS2] :=
  ⟨_, _, _, rfl, by decide +kernel, rfl, by decide +kernel, rfl, by decide +kernel⟩
theorem noHeader_garbage : NoHeader [0xAA#8, 0x52#8] := by
  intro i
  match i with
  | 0 => simp [HeaderAt]
  | 1 => simp [HeaderAt]
  | i + 2 => simp [HeaderAt]
theorem witness_FramesDependOnTheStreamOnly : settled (frameS2.take 4) = true ∧ settled [] = true ∧
    (feedChunks (frameS2.take 4) [frameS2.drop 4]).1 = [frameS2] := by decide +kernel
theorem witness_GarbageBeforeAFrameIsDropped :
    State.reset.buf = [] ∧ NoHeader [0xAA#8, 0x52#8] ∧ FrameShape frameS2 := ⟨rfl, noHeader_garbage, shape_S2⟩
theorem witness_SplitHeaderIsOneHeader :
    State.reset.buf = [] ∧ NoHeader [0xAA#8, 0x52#8] ∧ FrameShape (0x52#8 :: 0x42#8 :: frameS2.drop 2) :=
  ⟨rfl, noHeader_garbage, shape_S2⟩
theorem witness_StalledBufferKeepsEverything :
    [] ++ (frameA.take 29) = 0x52#8 :: 0x42#8 :: 0x1A#8 :: 0x00#8 :: (frameA.drop 4).take 25 ∧
    ([] ++ (frameA.take 29)).length < (u16 0x1A#8 0x00#8).toNat + 4 := by decide +kernel
theorem witness_RxNeverReportsAStructuralError :
    ∃ t, exec (.rx frameS2) State.reset = .next t ∧ t.out = .outcomes [.decoded (.status 1#8)] :=
  ⟨_, rfl, by decide +kernel⟩
theorem witness_FiniteBufferCapRefusesOnlyOverflow :
    65539 < (at_ [] 0#16).buf.length + 65540 ∧ (at_ [1#8] 0#16).buf.length + [2#8].length ≤ 2 ∧
    ({ bufCap := some 65539, maxChunk := none } : Config).legal = true ∧ settled (frameA.take 29) = true := by
  decide +kernel
theorem witness_WholeBlockRules :
    writesBuf .crcInit = false ∧ writesReg (.feed frameS2) = false ∧ exposesReg (.parse frameA) = false ∧
    (∃ t, exec .crcInit State.reset = .next t) ∧ (∃ t, exec (.feed frameS2) State.reset = .next t) ∧
    (∃ t, exec (.parse frameA) State.reset = .next t) ∧
    (∃ r, writesBuf (.crcVerify []) = false ∧ exec (.crcVerify []) State.reset = .refused r) :=
  ⟨rfl, rfl, rfl, ⟨_, rfl⟩, ⟨_, rfl⟩, ⟨_, rfl⟩, ⟨_, rfl, rfl⟩⟩
theorem witness_EveryWellFormedInstructionCompletes :
    (Instr.reqSetled 1#8 2#8 3#8 0x83#8 0x64#8).wf = true ∧ (Instr.bldSetled 1 2 256).wf = false := by decide +kernel
theorem witness_ScaledValuesAreExact : ∃ v, sensorReading frameA = .ok v := ⟨_, rfl⟩
theorem witness_FieldOutOfRangeIsReachedByTheseFramesOnly :
    ∃ t u, exec (.parse frame6) State.reset = .next t ∧
      t.out = .parsed (.error (.outOfRange (.fieldOutOfRange 5 2))) ∧
      exec (.parse frame27) State.reset = .next u ∧
      u.out = .parsed (.error (.outOfRange (.fieldOutOfRange 26 2))) :=
  ⟨_, _, rfl, by decide +kernel, rfl, by decide +kernel⟩
/-- A step of the strict machine with nothing pending, one that completes, one that stops at a recorded fault (one byte
short), one that is refused; a run that completes; and the first of two recorded faults, after an outcome of its own. -/
theorem witness_StrictMachineStopsAtTheFirstRecordedFault :
    (State.reset.pending = [] ∧ ∃ t, step State.reset = .next t) ∧
    (∃ t, step { State.reset with pending := [encode .crcRead] } = .next t ∧ t.out.faults = []) ∧
    (∃ t, step { State.reset with pending := [.op 0x13#8 [.bytes [1#8, 2#8, 3#8], .nat 0]] } = .next t ∧
      RecordsFirst t.out (.fieldOutOfRange 0 4) ∧ ([1#8, 2#8, 3#8] : List Byte).length < 0 + 4) ∧
    (∃ r, step { State.reset with pending := [.op 0x06#8 []] } = .refused r) ∧
    SafeRun 2 { State.reset with pending := [encode .crcInit, encode .crcRead] } ∧
    RecordsFirst (.outcomes [.error .checksumMismatch, .error (.outOfRange (.fieldOutOfRange 8 2)),
      .error (.outOfRange (.fieldOutOfRange 5 2))]) (.fieldOutOfRange 8 2) :=
  ⟨⟨rfl, _, rfl⟩, ⟨_, rfl, rfl⟩, ⟨_, rfl, rfl, by decide⟩, ⟨_, rfl⟩, ⟨_, rfl⟩,
    [.error .checksumMismatch], [.error (.outOfRange (.fieldOutOfRange 5 2))], rfl, by simp⟩
/-- The strict machine on the two ends of UNPK.U8's range in one byte: the read at 0 completes, the read at 1 stops. -/
theorem test_strict_unpack_at_the_end :
    (∃ t, stepStrict { State.reset with pending := [encode (.unpkU8 [7#8] 0)] } = .next t) ∧
    stepStrict { State.reset with pending := [encode (.unpkU8 [7#8] 1)] } = .fault (.fieldOutOfRange 1 1) :=
  ⟨⟨_, rfl⟩, rfl⟩

end Sys2Proof.Tests
end

/-! ### Stepping: one equation per branch of `step` -/

namespace Sys2Proof.Machine

/-- R231, R235: the block has no move of its own. -/
theorem step_of_pending_nil {s : State} (h : s.pending = []) : step s = .next s := by
  simp only [step, h]

/-- R7: the oldest request leaves the queue and its operation runs on the rest of the state. -/
theorem step_of_decode_ok {s : State} {r : Request} {rest : List Request} {i : Instr}
    (h : s.pending = r :: rest) (hd : decode r = .ok i) : step s = exec i { s with pending := rest } := by
  simp only [step, h, hd]

/-- R77: a request that stands for no operation is refused, whatever else is pending. -/
theorem step_of_decode_error {s : State} {r : Request} {rest : List Request} {e : DecodeError}
    (h : s.pending = r :: rest) (hd : decode r = .error e) : step s = .refused (.notAnOperation e) := by
  simp only [step, h, hd]

/-- Settles O2: its two clauses are the equations of `step` for a request that decodes and for an empty queue. -/
theorem stepRunsTheDecodedOperation : Obligations.StepRunsTheDecodedOperation :=
  ⟨fun _ _ _ _ hpending hdecode => step_of_decode_ok hpending hdecode,
    fun _ hpending => step_of_pending_nil hpending⟩

end Sys2Proof.Machine

/-! ### What an operation outside the SYNC unit can do to `buf` and `reg` (R22, R25) -/

namespace Sys2Proof.Machine

/-- The operation answers in the same way in every state: it is refused in all of them, or it returns the same result
from all of them and changes at most `reg`, to a value that depends on `reg` alone. -/
def FixedResult (op : State → Answer) : Prop :=
  (∃ why, ∀ s, op s = .refused why) ∨
    ∃ (out : Result) (reg : Word → Word), ∀ s, op s = ret out (s.setReg (reg s.reg))

theorem FixedResult.of_refused {op : State → Answer} (why : Refusal) (h : ∀ s, op s = .refused why) : FixedResult op :=
  .inl ⟨why, h⟩

theorem FixedResult.of_ret {op : State → Answer} (out : Result) (reg : Word → Word)
    (h : ∀ s, op s = ret out (s.setReg (reg s.reg))) : FixedResult op :=
  .inr ⟨out, reg, h⟩

/-- A check of the operands alone chooses between two such operations. -/
theorem FixedResult.ite {op₁ op₂ : State → Answer} (c : Prop) [Decidable c] (h₁ : FixedResult op₁)
    (h₂ : FixedResult op₂) : FixedResult fun s => if c then op₁ s else op₂ s := by
  by_cases hc : c
  · simpa only [hc, if_true] using h₁
  · simpa only [hc, if_false] using h₂

theorem fixedResult_unpack (bs : List Byte) (off n : Nat) (form : Nat → Result) :
    FixedResult (unpack bs off n form) := by
  rcases memRead_cases bs off n with ⟨-, hread⟩ | ⟨-, hread⟩
  · exact .of_ret _ id fun s => by simp only [unpack, hread]; rfl
  · exact .of_ret _ id fun s => by simp only [unpack, hread]; rfl

theorem fixedResult_buildFrame (body : List Byte) : FixedResult (buildFrame body) :=
  .of_ret _ (fun _ => crc16 body) fun _ => rfl

/-- R141: PARSE writes `reg`, and its outcome does not depend on it. -/
theorem fixedResult_parseOp (bs : List Byte) : FixedResult (parseOp bs) :=
  .of_ret (.parsed (parseFrame Config.crcInit bs).2) (fun r => (parseFrame r bs).1) fun s => by
    rw [parseOp, parseFrame_outcome_indep s.reg Config.crcInit]

/-- R22, R25: every instruction but CRC.READ and the three of the SYNC unit has a fixed result. CRC.BYTE is among
them: it exposes `reg` through `reg` only. -/
theorem exec_fixedResult_or (i : Instr) : FixedResult (exec i) ∨ i = .crcRead ∨ writesBuf i = true := by
  cases i with
  | crcRead => exact .inr (.inl rfl)
  | feed | rx | syncReset => exact .inr (.inr rfl)
  | crcInit => exact .inl (.of_ret _ (fun _ => Config.crcInit) fun _ => rfl)
  | crcByte b => exact .inl (.of_ret _ (fun r => crcByte r b) fun _ => rfl)
  | crcSum bs => exact .inl (.of_ret _ (fun _ => crc16 bs) fun _ => rfl)
  | crcVerify bs =>
    exact .inl (.ite _ (.of_refused _ fun _ => rfl) (.of_ret _ (fun _ => (verifyChecksum bs).computed) fun _ => rfl))
  | unpkU8 | unpkU16 | unpkI16 | unpkI32 => exact .inl (fixedResult_unpack _ _ _ _)
  | packU8 | packU16 => exact .inl (.of_ret _ id fun _ => rfl)
  | bldSetled | reqSetled => exact .inl (.ite _ (fixedResult_buildFrame _) (.of_refused _ fun _ => rfl))
  | bldRdlatest | bldRdflash | reqRdlatest | reqRdflash => exact .inl (fixedResult_buildFrame _)
  | parse | rspLatest | rspLed | rspFlash => exact .inl (fixedResult_parseOp _)

section

variable {op : State → Answer} {s t : State}

theorem FixedResult.buf_eq (h : FixedResult op) (hop : op s = .next t) : t.buf = s.buf := by
  obtain ⟨why, hrefused⟩ | ⟨out, reg, hret⟩ := h
  · simp [hrefused] at hop
  · rw [hret] at hop
    simpa using (ret_eq_next.mp hop).1

theorem FixedResult.next_setBuf (h : FixedResult op) (hop : op s = .next t) (bs : List Byte) :
    op (s.setBuf bs) = .next (t.setBuf bs) := by
  obtain ⟨why, hrefused⟩ | ⟨out, reg, hret⟩ := h
  · simp [hrefused] at hop
  · rw [hret] at hop ⊢
    cases hop
    rfl

theorem FixedResult.refused_of_refused (h : FixedResult op) {why : Refusal} (hop : op s = .refused why) (s' : State) :
    op s' = .refused why := by
  obtain ⟨why', hrefused⟩ | ⟨out, reg, hret⟩ := h
  · rwa [hrefused] at hop ⊢
  · exact absurd (hret s ▸ hop) (ret_ne_refused _ _ _)

theorem FixedResult.next_setReg (h : FixedResult op) (hop : op s = .next t) (r : Word) :
    ∃ r', op (s.setReg r) = .next (t.setReg r') := by
  obtain ⟨why, hrefused⟩ | ⟨out, reg, hret⟩ := h
  · simp [hrefused] at hop
  · rw [hret] at hop ⊢
    cases hop
    exact ⟨reg r, rfl⟩

end

/-- Everything CRC.READ does (R95). -/
theorem exec_crcRead (s : State) : exec .crcRead s = .next (s.setOut (.u16 s.reg)) := rfl

/-- Everything SYNC.RESET does (R181). -/
theorem exec_syncReset (s : State) : exec .syncReset s = .next ((s.setBuf []).setOut .none) := rfl

/-- Everything a FEED does (R170, R178). -/
theorem exec_feed (chunk : List Byte) (s : State) :
    exec (.feed chunk) s =
      .next ((s.setBuf (feedBytes s.buf chunk).2).setOut (.frames (feedBytes s.buf chunk).1)) := rfl

/-- Everything an RX does (R180). -/
theorem exec_rx (chunk : List Byte) (s : State) :
    exec (.rx chunk) s =
      .next (((s.setBuf (feedBytes s.buf chunk).2).setReg (parseAll s.reg (feedBytes s.buf chunk).1).1).setOut
        (.outcomes (parseAll s.reg (feedBytes s.buf chunk).1).2)) := rfl

/-- R141, R180: the outcomes of an RX do not depend on the register it started from. -/
theorem parseAll_outcomes_indep (r r' : Word) (fs : List (List Byte)) : (parseAll r fs).2 = (parseAll r' fs).2 := by
  induction fs generalizing r r' with
  | nil => rfl
  | cons f fs ih => simp only [parseAll, parseFrame_outcome_indep r r' f, ih (parseFrame r f).1 (parseFrame r' f).1]

/-- Settles O6: the reset state is written out, and SYNC.RESET is one update of `buf` (R33, R181). -/
theorem resetValuesOfBufferAndRegister : Obligations.ResetValuesOfBufferAndRegister :=
  ⟨⟨rfl, rfl, rfl⟩, fun s => ⟨_, exec_syncReset s, rfl, rfl⟩⟩

/-- Settles O54: an operation with a fixed result changes at most `reg`, and CRC.READ changes only `out`. -/
theorem onlyTheSyncUnitWritesTheBuffer : Obligations.OnlyTheSyncUnitWritesTheBuffer := by
  intro i s t hi hop
  obtain hfixed | rfl | hsync := exec_fixedResult_or i
  · exact hfixed.buf_eq hop
  · rw [exec_crcRead] at hop
    cases hop
    rfl
  · exact absurd hsync (by simp [hi])

/-- Settles O55: an operation with a fixed result commutes with a change of `buf` and keeps its refusal; so does
CRC.READ, which is never refused. -/
theorem onlyTheSyncUnitReadsTheBuffer : Obligations.OnlyTheSyncUnitReadsTheBuffer := by
  intro i s other hi
  obtain hfixed | rfl | hsync := exec_fixedResult_or i
  · exact ⟨fun _ hop => hfixed.next_setBuf hop other, fun _ hop => hfixed.refused_of_refused hop _⟩
  · simp only [exec_crcRead]
    constructor
    · rintro t ⟨⟩
      rfl
    · rintro r ⟨⟩
  · exact absurd hsync (by simp [hi])

/-- Settles O57: a fixed result does not depend on `reg`. Of the SYNC unit, FEED and SYNC.RESET do not touch `reg`, and
RX reads it only through PARSE, whose outcomes do not depend on it. -/
theorem oldRegisterIsExposedByTwoOperationsOnly : Obligations.OldRegisterIsExposedByTwoOperationsOnly := by
  intro i s t r hi hop
  obtain hfixed | rfl | hsync := exec_fixedResult_or i
  · exact hfixed.next_setReg hop r
  · cases hi
  · cases i with
    | feed chunk =>
      rw [exec_feed] at hop
      cases hop
      exact ⟨r, exec_feed chunk _⟩
    | rx chunk =>
      rw [exec_rx, parseAll_outcomes_indep s.reg r] at hop
      cases hop
      exact ⟨(parseAll r (feedBytes s.buf chunk).1).1, exec_rx chunk _⟩
    | syncReset =>
      rw [exec_syncReset] at hop
      cases hop
      exact ⟨r, exec_syncReset _⟩
    | _ => cases hsync

/-! ### A finite `BUF_CAP` (R24) -/

/-- A chunk that the configuration does not refuse is fed as on the unbounded machine. -/
theorem feedOp_eq_exec {c : Config} {chunk : List Byte} {s : State}
    (h : refusesChunk c s.buf.length chunk.length = none) : feedOp c chunk s = exec (.feed chunk) s := by
  simp only [feedOp, h]
  rfl

theorem rxOp_eq_exec {c : Config} {chunk : List Byte} {s : State}
    (h : refusesChunk c s.buf.length chunk.length = none) : rxOp c chunk s = exec (.rx chunk) s := by
  simp only [rxOp, h]
  rfl

theorem feedOp_of_refusesChunk {c : Config} {chunk : List Byte} {s : State} {why : Refusal}
    (h : refusesChunk c s.buf.length chunk.length = some why) : feedOp c chunk s = .refused why := by
  simp only [feedOp, h]

theorem rxOp_of_refusesChunk {c : Config} {chunk : List Byte} {s : State} {why : Refusal}
    (h : refusesChunk c s.buf.length chunk.length = some why) : rxOp c chunk s = .refused why := by
  simp only [rxOp, h]

/-- R24: with no bound on the chunk itself, exactly an overflow of a finite capacity is refused. -/
theorem refusesChunk_bufCap (cap held chunk : Nat) :
    refusesChunk { bufCap := some cap, maxChunk := none } held chunk =
      if cap < held + chunk then some .bufCapExceeded else none := by
  simp [refusesChunk]

/-- R61, R10: a length field is at most 65535. -/
theorem lengthField_lt (bs : List Byte) : lengthField bs < 65536 := by
  have hlen : (slice bs lengthOffset (lengthOffset + 2)).length ≤ 2 := by
    simp [slice, lengthOffset]
  calc lengthField bs < 256 ^ (slice bs lengthOffset (lengthOffset + 2)).length := fromLe_lt _
    _ ≤ 256 ^ 2 := Nat.pow_le_pow_right (by decide) hlen

/-- R185, R186: a settled buffer is shorter than the longest frame, of 65539 bytes. -/
theorem length_lt_of_settled {buf : List Byte} (h : settled buf = true) : buf.length < 65539 := by
  have hfield := lengthField_lt buf
  simp only [settled, Bool.or_eq_true, Bool.and_eq_true, decide_eq_true_eq] at h
  obtain hshort | ⟨-, hstalled⟩ := h
  · simp only [Config.minScan] at hshort
    omega
  · simp only [packetSize, Config.lenBias] at hstalled
    omega

/-- R24: a legal capacity leaves room for one more byte after a settled buffer. -/
theorem refusesChunk_one_of_legal {c : Config} {buf : List Byte} (hlegal : c.legal = true) (hmax : c.maxChunk = none)
    (hbuf : settled buf = true) : refusesChunk c buf.length 1 = none := by
  have hlen := length_lt_of_settled hbuf
  obtain ⟨bufCap, maxChunk⟩ := c
  obtain rfl : maxChunk = none := hmax
  cases bufCap with
  | none => rfl
  | some cap =>
    have hcap : 65539 ≤ cap := by simpa [Config.legal] using hlegal
    rw [refusesChunk_bufCap, if_neg (by omega)]

/-- Settles O53: the refusal is decided by `refusesChunk` alone, and a settled buffer is at most 65538 bytes long. -/
theorem finiteBufferCapRefusesOnlyOverflow : Obligations.FiniteBufferCapRefusesOnlyOverflow := by
  refine ⟨fun cap s chunk => ⟨fun hover => ?_, fun hfits => ?_⟩, fun c s b hlegal hmax hsettled => ?_⟩
  · have hrefused := (refusesChunk_bufCap cap s.buf.length chunk.length).trans (if_pos hover)
    exact ⟨feedOp_of_refusesChunk hrefused, rxOp_of_refusesChunk hrefused⟩
  · have htaken := (refusesChunk_bufCap cap s.buf.length chunk.length).trans (if_neg (by omega))
    exact ⟨feedOp_eq_exec htaken, rxOp_eq_exec htaken⟩
  · exact feedOp_eq_exec (refusesChunk_one_of_legal hlegal hmax hsettled)

end Sys2Proof.Machine

/-! ### A wide read is two narrower reads (R43) -/

namespace Sys2Proof.Machine

theorem slice_eq_take_drop (bs : List Byte) (off n : Nat) : slice bs off (off + n) = (bs.drop off).take n := by
  rw [slice, List.drop_take, Nat.add_sub_cancel_left]

/-- Two adjacent slices join into one. -/
theorem slice_append_slice (bs : List Byte) (off m n : Nat) :
    slice bs off (off + m) ++ slice bs (off + m) (off + m + n) = slice bs off (off + (m + n)) := by
  simp only [slice_eq_take_drop, List.take_add, List.drop_drop]

/-- R110: a read inside the sequence returns the value of its slice. -/
theorem memRead_of_le {bs : List Byte} {off n : Nat} (h : off + n ≤ bs.length) :
    memRead bs off n = .ok (fromLe (slice bs off (off + n))) :=
  if_pos h

/-- R41, R43: a read of `m + n` bytes succeeds only where the reads of its two parts do, and the part at the higher
offset is the more significant one. -/
theorem memRead_add {bs : List Byte} {off m n v : Nat} (hread : memRead bs off (m + n) = .ok v) :
    ∃ a b, memRead bs off m = .ok a ∧ memRead bs (off + m) n = .ok b ∧ v = a + 256 ^ m * b := by
  obtain ⟨hend, hwide⟩ | ⟨-, hpast⟩ := memRead_cases bs off (m + n)
  · have hlen : (slice bs off (off + m)).length = m := by
      rw [length_slice (by omega), Nat.add_sub_cancel_left]
    have hvalue : v = fromLe (slice bs off (off + (m + n))) := Except.ok.inj (hread.symm.trans hwide)
    refine ⟨_, _, memRead_of_le (by omega), memRead_of_le (by omega), ?_⟩
    rw [hvalue, ← slice_append_slice, fromLe_append, hlen]
  · cases hread.symm.trans hpast

/-- Settles O20: the two splits `2 = 1 + 1` and `4 = 2 + 2` of a read. -/
theorem mixedWidthReadsAreConsistent : Obligations.MixedWidthReadsAreConsistent :=
  fun _ _ _ => ⟨memRead_add (m := 1) (n := 1), memRead_add (m := 2) (n := 2)⟩

end Sys2Proof.Machine

/-! ### Decoding and encoding are inverse (R65 to R69, R72, R75 to R77) -/

namespace Sys2Proof.Machine

/-- R111: two bytes read as a word are the image of that word. -/
theorem leWord_wordOfLe (lo hi : Byte) : leWord (wordOfLe lo hi) = [lo, hi] := by
  have hval : (wordOfLe lo hi).toNat = fromLe [lo, hi] := by
    have hlt : fromLe [lo, hi] < 2 ^ 16 := by simpa using fromLe_lt [lo, hi]
    rw [wordOfLe, BitVec.toNat_ofNat, Nat.mod_eq_of_lt hlt]
  rw [leWord, hval]
  exact le_fromLe [lo, hi]

/-- R70, R117: two bytes are the image of exactly the word they are read as. -/
theorem leWord_eq_pair_iff {w : Word} {lo hi : Byte} : leWord w = [lo, hi] ↔ wordOfLe lo hi = w := by
  constructor
  · intro h
    rw [leWord_eq] at h
    cases h
    exact wordOfLe_leWord w
  · rintro rfl
    exact leWord_wordOfLe lo hi

end Sys2Proof.Machine

namespace Sys2Proof

open Machine

/-! #### The operation codes and operands -/

@[simp] theorem OpCode.ofByte_code (o : OpCode) : OpCode.ofByte o.code = some o := by
  cases o <;> rfl

theorem OpCode.code_of_ofByte {c : Byte} {o : OpCode} (h : OpCode.ofByte c = some o) : o.code = c := by
  simpa using List.find?_some h

/-- R77: a code selects no operation exactly when it is none of the codes of R75. -/
theorem OpCode.ofByte_eq_none_iff {c : Byte} : OpCode.ofByte c = none ↔ c ∉ OpCode.all.map OpCode.code := by
  simp [OpCode.ofByte]

theorem decode_request {o : OpCode} {operands : List Operand} {i : Instr} (h : decodeOperands o operands = some i) :
    decode (o.request operands) = .ok i := by
  simp only [OpCode.request, decode, OpCode.ofByte_code, h]

theorem decode_op_unassigned {code : Byte} (h : OpCode.ofByte code = none) (operands : List Operand) :
    decode (.op code operands) = .error (.unassignedCode code) := by
  simp only [decode, h]

/-- R76: an operation request decodes only through an assigned code and the operands of its row. -/
theorem decode_op_ok {code : Byte} {operands : List Operand} {i : Instr} (h : decode (.op code operands) = .ok i) :
    ∃ o : OpCode, o.code = code ∧ decodeOperands o operands = some i := by
  simp only [decode] at h
  split at h
  · cases h
  · next o hcode =>
    split at h
    · next hoperands =>
      cases h
      exact ⟨o, OpCode.code_of_ofByte hcode, hoperands⟩
    · cases h

/-- R75: operands that decode are those of the operation's row, as the encoder writes them. The `match`es give each
row's shape; of operands of another shape `decodeOperands` is `none`, against the hypothesis. -/
theorem encode_of_decodeOperands {o : OpCode} {operands : List Operand} {i : Instr}
    (h : decodeOperands o operands = some i) : encode i = o.request operands := by
  cases o with
  | crcInit | crcRead | bldRdlatest | bldRdflash | syncReset =>
    match operands with | [] => cases h; rfl
  | crcByte | packU8 => match operands with | [.u8 _] => cases h; rfl
  | packU16 => match operands with | [.u16 _] => cases h; rfl
  | crcSum | crcVerify | parse | feed | rx => match operands with | [.bytes _] => cases h; rfl
  | unpkU8 | unpkU16 | unpkI16 | unpkI32 => match operands with | [.bytes _, .nat _] => cases h; rfl
  | bldSetled => match operands with | [.nat _, .nat _, .nat _] => cases h; rfl

/-! #### The frame rows -/

/-- R66: whatever follows the nine fixed bytes, these fourteen are neither of the nine-byte frames. -/
theorem decodeFrameOut_reqSetled (r g b cl ch : Byte) :
    decodeFrameOut (reqSetledPrefix ++ [r, g, b, cl, ch]) = .ok (.reqSetled r g b cl ch) := by
  simp [decodeFrameOut, reqRdlatestBytes, reqRdflashBytes, reqSetledPrefix]

/-- R60, R62: a response frame byte by byte, the length low byte first. -/
theorem responseBytes_eq (length : Word) (command a0 a1 : Byte) (rest : List Byte) :
    responseBytes length command a0 a1 rest =
      0x52#8 :: 0x42#8 :: length.extractLsb' 0 8 :: length.extractLsb' 8 8 :: command :: a0 :: a1 :: rest := by
  simp [responseBytes, leWord_eq]

/-- The encoder's layout of a response frame, from its bytes. -/
theorem responseBytes_wordOfLe (l0 l1 command a0 a1 : Byte) (rest : List Byte) :
    responseBytes (wordOfLe l0 l1) command a0 a1 rest =
      0x52#8 :: 0x42#8 :: l0 :: l1 :: command :: a0 :: a1 :: rest := by
  simp [responseBytes, leWord_wordOfLe]

section

variable (length : Word) (command : Byte) (rest : List Byte)

theorem decodeFrameIn_latest :
    decodeFrameIn (responseBytes length command 0x22#8 0x50#8 rest) = .ok (.rspLatest length command rest) := by
  simp [responseBytes_eq, decodeFrameIn, wordOfLe_leWord]

theorem decodeFrameIn_led :
    decodeFrameIn (responseBytes length command 0x11#8 0x51#8 rest) = .ok (.rspLed length command rest) := by
  simp [responseBytes_eq, decodeFrameIn, wordOfLe_leWord]

theorem decodeFrameIn_flash :
    decodeFrameIn (responseBytes length command 0x03#8 0x54#8 rest) = .ok (.rspFlash length command rest) := by
  simp [responseBytes_eq, decodeFrameIn, wordOfLe_leWord]

end

/-- R72: bytes that decode as a response have its layout, with one of the three addresses. -/
theorem decodeFrameIn_ok {bs : List Byte} {i : Instr} (h : decodeFrameIn bs = .ok i) :
    ∃ length command rest, bs = responseBytes length command 0x22#8 0x50#8 rest ∨
      bs = responseBytes length command 0x11#8 0x51#8 rest ∨
      bs = responseBytes length command 0x03#8 0x54#8 rest := by
  unfold decodeFrameIn at h
  split at h
  · next h0 h1 l0 l1 command a0 a1 rest =>
    refine ⟨wordOfLe l0 l1, command, rest, ?_⟩
    simp only [responseBytes_wordOfLe]
    split at h
    · next hheader =>
      cases hheader
      split at h
      · next haddress =>
        cases haddress
        exact .inl rfl
      split at h
      · next haddress =>
        cases haddress
        exact .inr (.inl rfl)
      split at h
      · next haddress =>
        cases haddress
        exact .inr (.inr rfl)
      · cases h
    · cases h
  · cases h

/-! #### The two directions -/

/-- Every row of R75 and every frame row is read back as the encoder writes it. -/
theorem decode_encode (i : Instr) : decode (encode i) = .ok i := by
  cases i with
  | reqRdlatest | reqRdflash => rfl
  | reqSetled r g b cl ch => exact decodeFrameOut_reqSetled r g b cl ch
  | rspLatest length command rest => exact decodeFrameIn_latest length command rest
  | rspLed length command rest => exact decodeFrameIn_led length command rest
  | rspFlash length command rest => exact decodeFrameIn_flash length command rest
  | _ => exact decode_request rfl

/-- A request that decodes is the encoding of some instruction. -/
theorem exists_encode_eq_of_decode_ok {r : Request} {i : Instr} (h : decode r = .ok i) : ∃ j, encode j = r := by
  cases r with
  | op code operands =>
    obtain ⟨o, rfl, hoperands⟩ := decode_op_ok h
    exact ⟨i, encode_of_decodeOperands hoperands⟩
  | frameOut bs =>
    obtain rfl | rfl | ⟨r, g, b, cl, ch, rfl⟩ := decodeFrameOut_ok h
    · exact ⟨.reqRdlatest, rfl⟩
    · exact ⟨.reqRdflash, rfl⟩
    · exact ⟨.reqSetled r g b cl ch, rfl⟩
  | frameIn bs =>
    obtain ⟨length, command, rest, rfl | rfl | rfl⟩ := decodeFrameIn_ok h
    · exact ⟨.rspLatest length command rest, rfl⟩
    · exact ⟨.rspLed length command rest, rfl⟩
    · exact ⟨.rspFlash length command rest, rfl⟩

/-- Settles O3: row by row, the eighteen operations through their codes and the six frames through their bytes. -/
theorem decodeOfEncodeIsTheInstruction : Obligations.DecodeOfEncodeIsTheInstruction :=
  decode_encode

/-- Settles O4: the request is the encoding of some instruction, and by the round trip that instruction is the decoded
one. -/
theorem encodeOfDecodeIsTheRequest : Obligations.EncodeOfDecodeIsTheRequest := by
  intro r i hdecode
  obtain ⟨j, rfl⟩ := exists_encode_eq_of_decode_ok hdecode
  have hij : j = i := Except.ok.inj ((decode_encode j).symm.trans hdecode)
  rw [hij]

/-- Settles O1: each word is the encoding of its instruction, which the round trip reads back. -/
theorem tableWordsDecode : Obligations.TableWordsDecode :=
  ⟨decode_encode (.crcByte 0x52#8), decode_encode (.crcVerify [0xFF#8, 0xFF#8]),
    decode_encode (.unpkI32 [0x02#8, 0x76#8, 0x0F#8, 0x00#8] 0), decode_encode (.packU16 0x5022#16),
    decode_encode (.bldSetled 1 2 3), decode_encode (.parse []), decode_encode (.feed [0x52#8]),
    decode_encode .syncReset, decode_encode .reqRdlatest, decode_encode .reqRdflash,
    decode_encode (.rspLatest 26#16 0x00#8 [0x01#8]), decode_encode (.rspLed 6#16 0x02#8 []),
    decode_encode (.rspFlash 6#16 0x01#8 [])⟩

/-- Settles O5: the eighteen codes of the statement are those of the table, so the decoder finds no row and the step
is refused. -/
theorem unassignedCodesAreRefused : Obligations.UnassignedCodesAreRefused := by
  intro s code operands rest hcode hpending
  have hnone : OpCode.ofByte code = none := OpCode.ofByte_eq_none_iff.mpr hcode
  exact step_of_decode_error hpending (decode_op_unassigned hnone operands)

end Sys2Proof

/-! ### The frame rows as operations (R65 to R69) -/

namespace Sys2Proof.Machine

open Reference

theorem crc16_rdLatestBody : crc16 rdLatestBody = 0xBBE2#16 := by decide +kernel

theorem crc16_rdFlashBody : crc16 rdFlashBody = 0x28FB#16 := by decide +kernel

/-- R65, R131: the frame row is the body and its checksum. -/
theorem sealFrame_rdLatestBody : sealFrame rdLatestBody = reqRdlatestBytes := by
  rw [sealFrame, crc16_rdLatestBody]
  rfl

/-- R67, R133: the frame row is the body and its checksum. -/
theorem sealFrame_rdFlashBody : sealFrame rdFlashBody = reqRdflashBytes := by
  rw [sealFrame, crc16_rdFlashBody]
  rfl

/-- R66, R132: the body that the builder writes is the pattern's first twelve bytes. -/
theorem setLedBody_eq (red green blue : Byte) : setLedBody red green blue = setLedTwelve red green blue := by
  simp [setLedBody, frameBody, setLedTwelve, Config.header, Config.overhead, leWord, le]
  decide

/-- R130: everything a builder does, as one update of the state. -/
theorem buildFrame_eq (body : List Byte) (s : State) :
    buildFrame body s = .next { s with reg := crc16 body, out := .bytes (sealFrame body) } := rfl

theorem exec_reqRdlatest (s : State) :
    exec .reqRdlatest s = .next { s with reg := 0xBBE2#16, out := .bytes reqRdlatestBytes } := by
  have hrow := buildFrame_eq rdLatestBody s
  rwa [crc16_rdLatestBody, sealFrame_rdLatestBody] at hrow

theorem exec_reqRdflash (s : State) :
    exec .reqRdflash s = .next { s with reg := 0x28FB#16, out := .bytes reqRdflashBytes } := by
  have hrow := buildFrame_eq rdFlashBody s
  rwa [crc16_rdFlashBody, sealFrame_rdFlashBody] at hrow

section

variable {red green blue lo hi : Byte}

/-- R66: the check of the last two bytes, as an equation of words. -/
theorem setLedChecksumOk_iff :
    setLedChecksumOk red green blue lo hi = true ↔ u16 lo hi = crc16 (setLedTwelve red green blue) := by
  rw [setLedChecksumOk, setLedBody_eq, beq_iff_eq, leWord_eq_pair_iff, wordOfLe_eq, u16]

theorem exec_reqSetled_of_checksum (h : u16 lo hi = crc16 (setLedTwelve red green blue)) (s : State) :
    exec (.reqSetled red green blue lo hi) s =
      .next { s with reg := u16 lo hi, out := .bytes (setLedTwelve red green blue ++ [lo, hi]) } := by
  have hbytes : leWord (crc16 (setLedTwelve red green blue)) = [lo, hi] :=
    leWord_eq_pair_iff.mpr ((wordOfLe_eq lo hi).trans h)
  have hrow : exec (.reqSetled red green blue lo hi) s = buildFrame (setLedBody red green blue) s :=
    if_pos (setLedChecksumOk_iff.mpr h)
  rw [hrow, setLedBody_eq, buildFrame_eq, sealFrame, hbytes, h]

theorem exec_reqSetled_of_no_checksum (h : u16 lo hi ≠ crc16 (setLedTwelve red green blue)) (s : State) :
    exec (.reqSetled red green blue lo hi) s = .refused .notTheChecksum :=
  if_neg (mt setLedChecksumOk_iff.mp h)

end

/-- Settles O25: the two fixed frames carry the checksum of their bodies, and the last two bytes of REQ.SETLED pass
its check exactly when they are the checksum of the first twelve. -/
theorem requestRowsAreTheBuiltFrames : Obligations.RequestRowsAreTheBuiltFrames :=
  fun s => ⟨exec_reqRdlatest s, exec_reqRdflash s, fun _ _ _ _ _ h => exec_reqSetled_of_checksum h s,
    fun _ _ _ _ _ h => exec_reqSetled_of_no_checksum h s⟩

/-- R140: PARSE of any bytes completes in any state. -/
theorem parseOp_completes (bs : List Byte) (s : State) : ∃ t, parseOp bs s = .next t := ⟨_, rfl⟩

/-- Settles O36: a response row is PARSE of `responseBytes`, which are the bytes of R60, and PARSE completes. -/
theorem responseRowsAreParsed : Obligations.ResponseRowsAreParsed := by
  intro s length command rest
  have hparse (a0 a1 : Byte) : ∃ t, parseOp (responseBytes length command a0 a1 rest) s = .next t ∧
      parseOp (0x52#8 :: 0x42#8 :: length.extractLsb' 0 8 :: length.extractLsb' 8 8 :: command :: a0 :: a1 :: rest) s =
        .next t := by
    rw [responseBytes_eq]
    obtain ⟨t, ht⟩ := parseOp_completes _ s
    exact ⟨t, ht, ht⟩
  exact ⟨hparse 0x22#8 0x50#8, hparse 0x11#8 0x51#8, hparse 0x03#8 0x54#8⟩

/-! ### The operations that leave `reg` (R75, R170, R181) -/

/-- What only returns leaves `reg`. -/
theorem ret_reg_eq {r : Result} {s t : State} (h : ret r s = .next t) : t.reg = s.reg := by
  obtain ⟨-, hreg, -⟩ := ret_eq_next.mp h
  exact hreg

/-- R112 to R115, R118: an UNPK operation leaves `reg`, whether it returns a value or records the fault. -/
theorem unpack_reg_eq {bs : List Byte} {off n : Nat} {form : Nat → Result} {s t : State}
    (h : unpack bs off n form s = .next t) : t.reg = s.reg := by
  obtain ⟨-, hvalue⟩ | ⟨-, hfault⟩ := unpack_cases bs off n form s
  · exact ret_reg_eq (hvalue ▸ h)
  · exact ret_reg_eq (hfault ▸ h)

/-- Settles O56: CRC.READ and PACK only return, UNPK only returns or records, FEED and SYNC.RESET write only `buf`. -/
theorem otherOperationsLeaveTheRegister : Obligations.OtherOperationsLeaveTheRegister := by
  intro i s t hreg hop
  cases i with
  | crcRead | packU8 | packU16 => exact ret_reg_eq hop
  | unpkU8 | unpkU16 | unpkI16 | unpkI32 => exact unpack_reg_eq hop
  | feed | syncReset =>
    cases hop
    rfl
  | _ => cases hreg

end Sys2Proof.Machine

/-! ### The checksum in natural-number arithmetic (R90 to R92) -/

namespace Sys2Proof.Machine

open Reference

theorem crcStep_of_bit {r : Word} (h : r.getLsbD 0 = true) : crcStep r = (r >>> 1) ^^^ Config.crcPoly :=
  if_pos h

theorem crcStep_of_no_bit {r : Word} (h : r.getLsbD 0 = false) : crcStep r = r >>> 1 :=
  if_neg (Bool.eq_false_iff.mp h)

/-- R90: the tested bit is the remainder by 2 and the shift is the quotient. -/
theorem toNat_crcStep (r : Word) : (crcStep r).toNat = crcStepNat r.toNat := by
  have hbit : r.getLsbD 0 = decide (r.toNat % 2 = 1) := Nat.testBit_zero r.toNat
  have hshift : (r >>> 1).toNat = r.toNat / 2 := by simp [Nat.shiftRight_eq_div_pow]
  by_cases hodd : r.toNat % 2 = 1
  · rw [crcStep_of_bit (hbit.trans (decide_eq_true hodd)), BitVec.toNat_xor, hshift, crcStepNat, if_pos hodd]
    rfl
  · rw [crcStep_of_no_bit (hbit.trans (decide_eq_false hodd)), hshift, crcStepNat, if_neg hodd]

theorem toNat_crcSteps (n : Nat) (r : Word) : (crcSteps n r).toNat = crcStepNat^[n] r.toNat := by
  induction n generalizing r with
  | zero => rfl
  | succ n ih => rw [crcSteps, ih, toNat_crcStep, Function.iterate_succ_apply]

theorem toNat_crcByte (r : Word) (b : Byte) : (crcByte r b).toNat = crcByteNat r.toNat b.toNat := by
  have hzext : (b.setWidth 16).toNat = b.toNat := BitVec.toNat_setWidth_of_le (by decide)
  rw [crcByte, toNat_crcSteps, BitVec.toNat_xor, hzext, crcByteNat]

theorem toNat_crcFrom (r : Word) (bs : List Byte) :
    (crcFrom r bs).toNat = bs.foldl (fun n b => crcByteNat n b.toNat) r.toNat := by
  induction bs generalizing r with
  | nil => rfl
  | cons b bs ih => rw [crcFrom_cons, ih, toNat_crcByte, List.foldl_cons]

/-- R91: the byte step of the statements is the machine's. -/
theorem ofNat_crcByteNat (r : Word) (b : Byte) : BitVec.ofNat 16 (crcByteNat r.toNat b.toNat) = crcByte r b := by
  rw [← toNat_crcByte, BitVec.ofNat_toNat, BitVec.setWidth_eq]

/-- R92: the checksum of the statements is the machine's. -/
theorem ofNat_crcNat (bs : List Byte) : BitVec.ofNat 16 (crcNat bs) = crc16 bs := by
  have hfold : (crc16 bs).toNat = crcNat bs := toNat_crcFrom Config.crcInit bs
  rw [← hfold, BitVec.ofNat_toNat, BitVec.setWidth_eq]

/-! ### The byte step is linear, and its table form (R91, R105) -/

/-- R90 with the conditional XOR as an XOR in every case. -/
theorem crcStep_eq_xor (r : Word) : crcStep r = (r >>> 1) ^^^ (if r.getLsbD 0 then Config.crcPoly else 0) := by
  cases hbit : r.getLsbD 0 with
  | true => exact crcStep_of_bit hbit
  | false => simp [crcStep_of_no_bit hbit]

/-- R90: the bit step is linear over XOR, because its shift and its feedback are. -/
theorem crcStep_xor (x y : Word) : crcStep (x ^^^ y) = crcStep x ^^^ crcStep y := by
  have hfeedback : ∀ p q : Bool, (if p ^^ q then Config.crcPoly else 0) =
      (if p then Config.crcPoly else 0) ^^^ (if q then Config.crcPoly else 0) := by decide
  rw [crcStep_eq_xor, crcStep_eq_xor x, crcStep_eq_xor y, BitVec.ushiftRight_xor_distrib, BitVec.getLsbD_xor, hfeedback]
  ac_rfl

theorem crcSteps_xor (n : Nat) (x y : Word) : crcSteps n (x ^^^ y) = crcSteps n x ^^^ crcSteps n y := by
  induction n generalizing x y with
  | zero => rfl
  | succ n ih => rw [crcSteps, crcStep_xor, ih, crcSteps, crcSteps]

/-- While the tested bits are 0, the bit steps only shift. -/
theorem crcSteps_of_low_bits_zero (n : Nat) {v : Word} (h : ∀ i < n, v.getLsbD i = false) :
    crcSteps n v = v >>> n := by
  induction n generalizing v with
  | zero => simp [crcSteps]
  | succ n ih =>
    have hstep : crcStep v = v >>> 1 := crcStep_of_no_bit (h 0 (by omega))
    have hrest : ∀ i < n, (v >>> 1).getLsbD i = false := fun i hi => by
      simpa using h (1 + i) (by omega)
    rw [crcSteps, hstep, ih hrest, ← BitVec.shiftRight_add, Nat.add_comm]

/-- A word is its high byte in place and its low byte. -/
theorem word_eq_high_xor_low (r : Word) : r = ((r >>> 8) <<< 8) ^^^ (r.setWidth 8).setWidth 16 := by
  apply BitVec.eq_of_getLsbD_eq
  intro i hi
  by_cases hlow : i < 8
  · simp [hlow, hi]
  · simp [hlow, hi, show 8 + (i - 8) = i by omega]

/-- Eight bit steps only move a high byte down. -/
theorem crcSteps_high_byte (r : Word) : crcSteps 8 ((r >>> 8) <<< 8) = r >>> 8 := by
  rw [crcSteps_of_low_bits_zero 8 fun i hi => by simp [hi]]
  apply BitVec.eq_of_getLsbD_eq
  intro i hi
  simpa using BitVec.lt_of_getLsbD

/-- R105: the byte step moves the high byte down, and what it adds is the byte step from zero of the low byte XORed
with the data byte. -/
theorem crcByte_eq_shift_xor (r : Word) (b : Byte) :
    crcByte r b = (r >>> 8) ^^^ crcByte 0#16 (r.setWidth 8 ^^^ b) := by
  have hsplit : r ^^^ b.setWidth 16 = ((r >>> 8) <<< 8) ^^^ (r.setWidth 8 ^^^ b).setWidth 16 := by
    rw [BitVec.setWidth_xor, ← BitVec.xor_assoc, ← word_eq_high_xor_low]
  rw [crcByte, hsplit, crcSteps_xor, crcSteps_high_byte, crcByte, BitVec.zero_xor]

/-- The register's own low byte cancels: the byte step is a shift by eight. -/
theorem crcByte_low_byte (r : Word) : crcByte r (r.setWidth 8) = r >>> 8 := by
  have hzero : crcByte 0#16 0#8 = 0#16 := by decide
  rw [crcByte_eq_shift_xor, BitVec.xor_self, hzero, BitVec.xor_zero]

/-- R102: a register absorbs its own two bytes, low byte first, to zero. -/
theorem crcFrom_own_bytes (r : Word) : crcFrom r [r.extractLsb' 0 8, r.extractLsb' 8 8] = 0 := by
  have hlow : r.extractLsb' 0 8 = r.setWidth 8 := (BitVec.setWidth_eq_extractLsb' (by decide)).symm
  have hhigh : r.extractLsb' 8 8 = (r >>> 8).setWidth 8 := by
    apply BitVec.eq_of_toNat_eq
    simp
  have hgone : r >>> 8 >>> 8 = 0 := by
    rw [← BitVec.shiftRight_add]
    exact BitVec.ushiftRight_eq_zero (by decide)
  rw [crcFrom_cons, crcFrom_cons, crcFrom_nil, hlow, hhigh, crcByte_low_byte, crcByte_low_byte, hgone]

theorem crc16_withChecksum (body : List Byte) : crc16 (withChecksum body) = 0 := by
  rw [withChecksum, crc16_append, crcFrom_own_bytes]

/-- R100: from a fixed register the byte step is injective on the byte. -/
theorem crcByte_injective_byte (r : Word) {b b' : Byte} (h : crcByte r b = crcByte r b') : b = b' := by
  have hxor : r ^^^ b.setWidth 16 = r ^^^ b'.setWidth 16 := crcSteps_injective 8 h
  have hzext : b.setWidth 16 = b'.setWidth 16 := (BitVec.xor_right_inj r).mp hxor
  simpa using congrArg (BitVec.setWidth 8) hzext

/-! ### The operations of the CRC unit (R93 to R97) -/

theorem exec_crcInit (s : State) : exec .crcInit s = .next ((s.setReg Config.crcInit).setOut .none) := rfl

theorem exec_crcByte (b : Byte) (s : State) :
    exec (.crcByte b) s = .next ((s.setReg (crcByte s.reg b)).setOut .none) := rfl

theorem exec_crcSum (bs : List Byte) (s : State) :
    exec (.crcSum bs) s = .next ((s.setReg (crc16 bs)).setOut (.u16 (crc16 bs))) := rfl

theorem exec_crcVerify_of_short {bs : List Byte} (h : bs.length < 2) (s : State) :
    exec (.crcVerify bs) s = .refused .verifyTooShort :=
  if_pos h

theorem exec_crcVerify_of_long {bs : List Byte} (h : ¬ bs.length < 2) (s : State) :
    exec (.crcVerify bs) s =
      .next ((s.setReg (verifyChecksum bs).computed).setOut (.verdict (verifyChecksum bs))) :=
  if_neg h

/-- R97: the verdict on bytes that end in `lo`, `hi`. -/
theorem verifyChecksum_append_pair (covered : List Byte) (lo hi : Byte) :
    verifyChecksum (covered ++ [lo, hi]) =
      { ok := decide (crc16 covered = u16 lo hi), computed := crc16 covered, stored := u16 lo hi } := by
  have hcovered : slice (covered ++ [lo, hi]) 0 ((covered ++ [lo, hi]).length - 2) = covered := by simp [slice]
  have htail : slice (covered ++ [lo, hi]) ((covered ++ [lo, hi]).length - 2) (covered ++ [lo, hi]).length =
      [lo, hi] := by
    simp [slice, List.take_of_length_le]
  have hstored : (BitVec.ofNat 16 (fromLe [lo, hi]) : Word) = u16 lo hi := wordOfLe_eq lo hi
  simp only [verifyChecksum, hcovered, htail, hstored, beq_eq_decide]

/-- A program goes on from the state that its first instruction leaves. -/
theorem execAll_cons_of_next {i : Instr} {s t : State} (h : exec i s = .next t) (rest : List Instr) :
    execAll (i :: rest) s = execAll rest t := by
  simp only [execAll, h]

/-- R101: a run of CRC.BYTE, one for each byte, folds the byte step over the register. -/
theorem execAll_crcByte (bs : List Byte) (rest : List Instr) (s : State) :
    execAll (bs.map Instr.crcByte ++ rest) (s.setOut .none) =
      execAll rest ((s.setReg (crcFrom s.reg bs)).setOut .none) := by
  induction bs generalizing s with
  | nil => rfl
  | cons b bs ih =>
    rw [List.map_cons, List.cons_append, execAll_cons_of_next (exec_crcByte b _)]
    exact ih (s.setReg (crcByte s.reg b))

/-- Settles O7: the equation of CRC.INIT (R93). -/
theorem crcInitLoadsOnes : Obligations.CrcInitLoadsOnes :=
  exec_crcInit

/-- Settles O8: the machine's byte step is the one in natural-number arithmetic. -/
theorem crcByteAbsorbsOneByte : Obligations.CrcByteAbsorbsOneByte := by
  intro s b
  rw [ofNat_crcByteNat]
  exact exec_crcByte b s

/-- Settles O9: the equation of CRC.READ (R95). -/
theorem crcReadReturnsTheRegister : Obligations.CrcReadReturnsTheRegister :=
  exec_crcRead

/-- Settles O10: the machine's checksum is the fold in natural-number arithmetic. -/
theorem crcSumIsTheWholeChecksum : Obligations.CrcSumIsTheWholeChecksum := by
  intro s bs
  rw [ofNat_crcNat]
  exact exec_crcSum bs s

/-- Settles O11: two trailing bytes pass the length check, and the verdict is that of `verifyChecksum_append_pair`. -/
theorem crcVerifyComparesTheTrailingBytes : Obligations.CrcVerifyComparesTheTrailingBytes := by
  refine ⟨fun s covered lo hi => ?_, fun s bs hshort => exec_crcVerify_of_short hshort s⟩
  have hlong : ¬ (covered ++ [lo, hi]).length < 2 := by simp
  rw [exec_crcVerify_of_long hlong, verifyChecksum_append_pair, ofNat_crcNat]
  rfl

/-- Settles O12: INIT starts the fold at `0xFFFF`, the run of BYTE is the fold, and READ returns what SUM returns. -/
theorem streamedChecksumEqualsOneShot : Obligations.StreamedChecksumEqualsOneShot := by
  intro s bs
  refine ⟨?_, _, exec_crcSum bs s, rfl⟩
  calc execAll (.crcInit :: (bs.map .crcByte ++ [.crcRead])) s
      = execAll (bs.map .crcByte ++ [.crcRead]) ((s.setReg Config.crcInit).setOut .none) :=
        execAll_cons_of_next (exec_crcInit s) _
    _ = execAll [.crcRead] (((s.setReg Config.crcInit).setReg (crc16 bs)).setOut .none) := execAll_crcByte _ _ _
    _ = exec (.crcSum bs) s := execAll_cons_of_next (exec_crcRead _) []

/-- Settles O13: the bytes before bring both checksums to one register, the changed byte parts them, and the bytes
after never bring them together again. -/
theorem everySingleByteChangeIsSeen : Obligations.EverySingleByteChangeIsSeen := by
  intro before after b b' hne hsame
  rw [crc16_append, crc16_append, crc16_append, crc16_append] at hsame
  have hbyte : crcByte (crc16 before) b = crcByte (crc16 before) b' := crcFrom_injective after hsame
  exact hne (crcByte_injective_byte _ hbyte)

/-- Settles O14: the register reached after the body absorbs its own two bytes to zero. -/
theorem residueOfASealedFrameIsZero : Obligations.ResidueOfASealedFrameIsZero := by
  intro s body
  rw [exec_crcSum, crc16_withChecksum]
  rfl

/-- Settles O15: the table entry is the machine's byte step from zero, which the linear split of the register leaves. -/
theorem tableDrivenByteStepAgrees : Obligations.TableDrivenByteStepAgrees := by
  intro r b
  have hentry := ofNat_crcByteNat 0#16 (r.setWidth 8 ^^^ b)
  rw [BitVec.toNat_zero] at hentry
  rw [hentry]
  exact crcByte_eq_shift_xor r b

end Sys2Proof.Machine

/-! ### Values by bytes as bit vectors (R70, R110), and the sign conversion as `toInt` (R119) -/

namespace Sys2Proof.Machine

open Reference

/-- R70: the byte at the higher offset is the more significant one. -/
theorem toNat_append_eq_add {m n : Nat} (hi : BitVec m) (lo : BitVec n) :
    (hi ++ lo).toNat = lo.toNat + 2 ^ n * hi.toNat := by
  rw [BitVec.toNat_append, ← Nat.shiftLeft_add_eq_or_of_lt lo.isLt, Nat.shiftLeft_eq, Nat.add_comm, Nat.mul_comm]

theorem fromLe_pair (lo hi : Byte) : fromLe [lo, hi] = (hi ++ lo).toNat := by
  rw [toNat_append_eq_add]
  simp

theorem fromLe_quad (b0 b1 b2 b3 : Byte) : fromLe [b0, b1, b2, b3] = (b3 ++ b2 ++ b1 ++ b0).toNat := by
  simp only [toNat_append_eq_add, fromLe_cons, fromLe_nil]
  omega

/-- R119: `sext_N` reads an `N`-bit word as two's complement. -/
theorem sext_toNat {n : Nat} (x : BitVec n) : sext n x.toNat = x.toInt := by
  simp [sext, BitVec.toInt_eq_msb_cond, BitVec.msb_eq_decide]

/-- Every unsigned `n`-bit value is that of a word. -/
theorem sext_eq_toInt_ofNat {n u : Nat} (hu : u < 2 ^ n) : sext n u = (BitVec.ofNat n u).toInt := by
  rw [← sext_toNat, BitVec.toNat_ofNat, Nat.mod_eq_of_lt hu]

theorem sext_injective {n u v : Nat} (hu : u < 2 ^ n) (hv : v < 2 ^ n) (h : sext n u = sext n v) : u = v := by
  rw [sext_eq_toInt_ofNat hu, sext_eq_toInt_ofNat hv, BitVec.toInt_inj] at h
  simpa [Nat.mod_eq_of_lt hu, Nat.mod_eq_of_lt hv] using congrArg BitVec.toNat h

/-- Settles O21: `toInt` has the signed range, `ofInt` is its inverse there, and `sext` loses nothing. -/
theorem signConversionIsABijection : Obligations.SignConversionIsABijection := by
  intro n hn
  refine ⟨fun u hu => ?_, fun z hlow hhigh => ?_⟩
  · rw [sext_eq_toInt_ofNat hu]
    exact ⟨BitVec.le_toInt _, BitVec.toInt_lt⟩
  · have hz : sext n (BitVec.ofInt n z).toNat = z := by
      rw [sext_toNat, BitVec.toInt_ofInt_eq_self hn hlow hhigh]
    exact ⟨_, ⟨BitVec.isLt _, hz⟩, fun u' hu' hu'z => sext_injective hu' (BitVec.isLt _) (hu'z.trans hz.symm)⟩

/-! ### The operations of the LE unit (R112 to R118) -/

/-- R110: an UNPK operation on bytes that lie inside the sequence returns their value in its form. -/
theorem unpack_append {mid : List Byte} {form : Nat → Result} {r : Result} (hvalue : form (fromLe mid) = r)
    (pre post : List Byte) (s : State) :
    unpack (pre ++ (mid ++ post)) pre.length mid.length form s = .next (s.setOut r) := by
  simp only [unpack, memRead_append, hvalue, ret]

/-- R118: an UNPK operation past the end records the fault that names its read. -/
theorem unpack_past_end {bs : List Byte} {off n : Nat} (h : bs.length < off + n) (form : Nat → Result) (s : State) :
    unpack bs off n form s = .next (s.setOut (.fault (.fieldOutOfRange off n))) := by
  simp only [unpack, memRead_past_end h, raiseFault, ret]

section

variable (pre post : List Byte) (b0 b1 b2 b3 : Byte) (s : State)

theorem exec_unpkU8_append : exec (.unpkU8 (pre ++ b0 :: post) pre.length) s = .next (s.setOut (.u8 b0)) :=
  have hbyte : BitVec.ofNat 8 (fromLe [b0]) = b0 := by simp
  unpack_append (mid := [b0]) (congrArg Result.u8 hbyte) pre post s

theorem exec_unpkU16_append :
    exec (.unpkU16 (pre ++ b0 :: b1 :: post) pre.length) s = .next (s.setOut (.u16 (u16 b0 b1))) :=
  unpack_append (mid := [b0, b1]) (congrArg Result.u16 (wordOfLe_eq b0 b1)) pre post s

theorem exec_unpkI16_append :
    exec (.unpkI16 (pre ++ b0 :: b1 :: post) pre.length) s = .next (s.setOut (.i16 (i16 b0 b1))) :=
  have hsigned : sext 16 (fromLe [b0, b1]) = i16 b0 b1 := by rw [fromLe_pair]; exact sext_toNat _
  unpack_append (mid := [b0, b1]) (congrArg Result.i16 hsigned) pre post s

theorem exec_unpkI32_append :
    exec (.unpkI32 (pre ++ b0 :: b1 :: b2 :: b3 :: post) pre.length) s = .next (s.setOut (.i32 (i32 b0 b1 b2 b3))) :=
  have hsigned : sext 32 (fromLe [b0, b1, b2, b3]) = i32 b0 b1 b2 b3 := by rw [fromLe_quad]; exact sext_toNat _
  unpack_append (mid := [b0, b1, b2, b3]) (congrArg Result.i32 hsigned) pre post s

end

theorem exec_packU8 (v : Byte) (s : State) : exec (.packU8 v) s = .next (s.setOut (.bytes [v])) := rfl

/-- R117: low byte first. -/
theorem exec_packU16 (v : Word) (s : State) :
    exec (.packU16 v) s = .next (s.setOut (.bytes [v.extractLsb' 0 8, v.extractLsb' 8 8])) := by
  rw [← leWord_eq]
  rfl

/-- Settles O16: the equations of the four UNPK operations inside the sequence. -/
theorem unpackReadsLittleEndian : Obligations.UnpackReadsLittleEndian :=
  fun s pre post b0 b1 b2 b3 =>
    ⟨exec_unpkU8_append pre post b0 s, exec_unpkU16_append pre post b0 b1 s, exec_unpkI16_append pre post b0 b1 s,
      exec_unpkI32_append pre post b0 b1 b2 b3 s⟩

/-- Settles O17: all four are one operation, and it records the fault past the end. -/
theorem unpackPastTheEndRecordsTheFault : Obligations.UnpackPastTheEndRecordsTheFault :=
  fun s _ _ =>
    ⟨fun h => unpack_past_end h _ s, fun h => unpack_past_end h _ s, fun h => unpack_past_end h _ s,
      fun h => unpack_past_end h _ s⟩

/-- Settles O18: the equations of the two PACK operations. -/
theorem packWritesLowByteFirst : Obligations.PackWritesLowByteFirst :=
  ⟨fun s v => exec_packU8 v s, fun s v => exec_packU16 v s⟩

/-- Settles O19: what PACK returned is the byte, or the two bytes that make the word, and UNPK reads them at offset 0
of it. -/
theorem unpackOfPackIsTheValue : Obligations.UnpackOfPackIsTheValue := by
  constructor
  · intro s t v bs hpack hout
    cases (exec_packU8 v s).symm.trans hpack
    cases hout
    exact exec_unpkU8_append [] [] v _
  · intro s t v bs hpack hout
    cases (exec_packU16 v s).symm.trans hpack
    cases hout
    have hword : u16 (v.extractLsb' 0 8) (v.extractLsb' 8 8) = v := (wordOfLe_eq _ _).symm.trans (wordOfLe_leWord v)
    have hread := exec_unpkU16_append [] [] (v.extractLsb' 0 8) (v.extractLsb' 8 8)
      (s.setOut (.bytes [v.extractLsb' 0 8, v.extractLsb' 8 8]))
    rwa [hword] at hread

/-! ### The fields of a decoded reading (R68, R121, R150 to R159) -/

/-- The field of a reading that a row of R68 names. -/
def SensorReading.field (v : SensorReading) : SensorField → Scaled
  | .sequenceNumber => v.sequenceNumber
  | .temperature => v.temperature
  | .humidity => v.humidity
  | .ambientLight => v.ambientLight
  | .pressure => v.pressure
  | .noise => v.noise
  | .etvoc => v.etvoc
  | .eco2 => v.eco2
  | .discomfortIndex => v.discomfortIndex
  | .heatStroke => v.heatStroke

/-- A sequence of two computations succeeds only where both do. -/
theorem except_bind_eq_ok {ε α β : Type} {x : Except ε α} {f : α → Except ε β} {b : β} (h : x >>= f = .ok b) :
    ∃ a, x = .ok a ∧ f a = .ok b := by
  cases x with
  | error e => cases h
  | ok a => exact ⟨a, rfl, h⟩

/-- R150 to R159: a reading is decoded only where each of the ten reads succeeds, and holds what they returned. -/
theorem readField_of_sensorReading {bs : List Byte} {v : SensorReading} (h : sensorReading bs = .ok v)
    (f : SensorField) : readField bs f = .ok (v.field f) := by
  obtain ⟨sequenceNumber, hsequenceNumber, h⟩ := except_bind_eq_ok h
  obtain ⟨temperature, htemperature, h⟩ := except_bind_eq_ok h
  obtain ⟨humidity, hhumidity, h⟩ := except_bind_eq_ok h
  obtain ⟨ambientLight, hambientLight, h⟩ := except_bind_eq_ok h
  obtain ⟨pressure, hpressure, h⟩ := except_bind_eq_ok h
  obtain ⟨noise, hnoise, h⟩ := except_bind_eq_ok h
  obtain ⟨etvoc, hetvoc, h⟩ := except_bind_eq_ok h
  obtain ⟨eco2, heco2, h⟩ := except_bind_eq_ok h
  obtain ⟨discomfortIndex, hdiscomfortIndex, h⟩ := except_bind_eq_ok h
  obtain ⟨heatStroke, hheatStroke, h⟩ := except_bind_eq_ok h
  cases h
  cases f <;> assumption

/-- R68: a field read carries the divisor of its row. -/
theorem divisor_of_readField {bs : List Byte} {f : SensorField} {x : Scaled} (h : readField bs f = .ok x) :
    x.divisor = f.divisor := by
  obtain ⟨-, hread⟩ | ⟨-, hread⟩ := memRead_cases bs f.offset f.rawType.size
  · rw [readField, hread] at h
    cases h
    rfl
  · rw [readField, hread] at h
    cases h

/-- R121: a value times its divisor is the raw integer. -/
theorem Scaled.divisor_mul_value {v : Scaled} (h : v.divisor ≠ 0) : v.divisor * v.value = v.raw :=
  mul_div_cancel₀ _ (Nat.cast_ne_zero.mpr h)

theorem SensorField.divisor_ne_zero (f : SensorField) : f.divisor ≠ 0 := by
  cases f <;> decide

/-- R68, R121: each field of a decoded reading is exact over the divisor of its row. -/
theorem divisor_mul_value_of_sensorReading {bs : List Byte} {v : SensorReading} (h : sensorReading bs = .ok v)
    (f : SensorField) : f.divisor * (v.field f).value = (v.field f).raw := by
  have hdivisor : (v.field f).divisor = f.divisor := divisor_of_readField (readField_of_sensorReading h f)
  rw [← hdivisor]
  exact Scaled.divisor_mul_value (hdivisor ▸ f.divisor_ne_zero)

/-- Settles O59: the ten rows of R68, with the divisor 1 left out where it stands. -/
theorem scaledValuesAreExact : Obligations.ScaledValuesAreExact := by
  intro bs v h
  have hexact := divisor_mul_value_of_sensorReading h
  have hunscaled (f : SensorField) (hone : f.divisor = 1) : (v.field f).value = (v.field f).raw := by
    simpa [hone] using hexact f
  exact ⟨hunscaled .sequenceNumber rfl, hexact .temperature, hexact .humidity, hunscaled .ambientLight rfl,
    hexact .pressure, hexact .noise, hunscaled .etvoc rfl, hunscaled .eco2 rfl, hexact .discomfortIndex,
    hexact .heatStroke⟩

end Sys2Proof.Machine

/-! ### The builders (R130 to R134, R136) -/

namespace Sys2Proof.Machine

open Reference

/-- R134: the three channels pass the check exactly when each is a byte. -/
theorem channelsOk_iff (red green blue : Nat) :
    (channelOk red && channelOk green && channelOk blue) = true ↔ red < 256 ∧ green < 256 ∧ blue < 256 := by
  simp [channelOk, and_assoc]

/-- R132: with the channels in range BLD.SETLED builds its frame. -/
theorem exec_bldSetled_of_channels {red green blue : Nat} (h : red < 256 ∧ green < 256 ∧ blue < 256) (s : State) :
    exec (.bldSetled red green blue) s =
      buildFrame (setLedBody (BitVec.ofNat 8 red) (BitVec.ofNat 8 green) (BitVec.ofNat 8 blue)) s :=
  if_pos ((channelsOk_iff red green blue).mpr h)

/-- R134: otherwise it is refused. -/
theorem exec_bldSetled_of_not_channels {red green blue : Nat} (h : ¬ (red < 256 ∧ green < 256 ∧ blue < 256))
    (s : State) : exec (.bldSetled red green blue) s = .refused .channelOutOfRange :=
  if_neg (mt (channelsOk_iff red green blue).mp h)

/-- R99: the frame of a body, with the two checksum bytes written out. -/
theorem sealFrame_eq_withChecksum (body : List Byte) : sealFrame body = withChecksum body := by
  rw [sealFrame, leWord_eq, withChecksum]

/-- Settles O23: the channels pass the check, and the body and checksum of the statement are the builder's. -/
theorem setLedBuildsFourteenBytes : Obligations.SetLedBuildsFourteenBytes := by
  intro s red green blue hred hgreen hblue
  rw [exec_bldSetled_of_channels ⟨hred, hgreen, hblue⟩, setLedBody_eq, buildFrame_eq, sealFrame_eq_withChecksum,
    ofNat_crcNat]

/-- Settles O24: a channel of 256 or more fails the check. -/
theorem channelOutOfRangeIsRefused : Obligations.ChannelOutOfRangeIsRefused := by
  intro s red green blue hwide
  exact exec_bldSetled_of_not_channels (by omega) s

/-- Settles O22: each builder is the frame row of the same request (`exec_reqRdlatest`, `exec_reqRdflash`). -/
theorem readRequestsAreTheseNineBytes : Obligations.ReadRequestsAreTheseNineBytes :=
  fun s => ⟨exec_reqRdlatest s, exec_reqRdflash s⟩

/-- R70, R117: the two bytes of a word, read low byte first, give it back. -/
theorem u16_extractLsb' (w : Word) : u16 (w.extractLsb' 0 8) (w.extractLsb' 8 8) = w :=
  (wordOfLe_eq _ _).symm.trans (wordOfLe_leWord w)

/-- R148: the checksum of a sealed body is right. -/
theorem checksumRight_sealFrame (body : List Byte) : ChecksumRight (sealFrame body) :=
  ⟨body, _, _, sealFrame_eq_withChecksum body, u16_extractLsb' _⟩

/-- R165: the checksum of everything but the last two bytes of a sealed body is that of the body. -/
theorem checksumOf_sealFrame (body : List Byte) : checksumOf (sealFrame body) = crc16 body := by
  simp [checksumOf, sealFrame_eq_withChecksum, withChecksum]

/-- R111: a number that fits a `u16` is written as the two bytes of that word. -/
theorem le_two_eq {n : Nat} (h : n < 2 ^ 16) :
    le 2 n = [(BitVec.ofNat 16 n).extractLsb' 0 8, (BitVec.ofNat 16 n).extractLsb' 8 8] := by
  rw [← leWord_eq, leWord, BitVec.toNat_ofNat, Nat.mod_eq_of_lt h]

/-- R130: where the length fits its field, an assembled frame has the header and the announced size. -/
theorem frameShape_sealFrame_frameBody (cmd : Byte) (addr : Word) {data : List Byte}
    (hdata : data.length ≤ 65530) : FrameShape (sealFrame (frameBody cmd addr data)) := by
  have hfit : data.length + Config.overhead < 2 ^ 16 := Nat.lt_of_le_of_lt (Nat.add_le_add_right hdata _) (by decide)
  refine ⟨_, _, _, by rw [sealFrame, frameBody, le_two_eq hfit]; rfl, ?_⟩
  rw [u16_extractLsb', BitVec.toNat_ofNat, Nat.mod_eq_of_lt hfit, length_sealFrame_frameBody, Config.lenBias]

/-- R131: the "read latest data" request has its shape. -/
theorem frameShape_rdLatest : FrameShape (sealFrame rdLatestBody) :=
  frameShape_sealFrame_frameBody _ _ (Nat.zero_le _)

/-- R133: the "read flash status" request has its shape. -/
theorem frameShape_rdFlash : FrameShape (sealFrame rdFlashBody) :=
  frameShape_sealFrame_frameBody _ _ (Nat.zero_le _)

/-- R132: the "set LED" request has its shape. -/
theorem frameShape_setLed (red green blue : Byte) : FrameShape (sealFrame (setLedBody red green blue)) :=
  frameShape_sealFrame_frameBody _ _ (by simp [leWord])

section

variable {body : List Byte} {s t : State}

/-- R136: where the frame of a body has its shape, a builder returns it well formed and leaves its checksum in
`reg`. -/
theorem buildFrame_wellFormed (hshape : FrameShape (sealFrame body)) (h : buildFrame body s = .next t) :
    ∃ bs, t.out = .bytes bs ∧ FrameShape bs ∧ ChecksumRight bs ∧ t.reg = checksumOf bs := by
  obtain ⟨-, hreg, -, hout⟩ := buildFrame_eq_next.mp h
  exact ⟨sealFrame body, hout, hshape, checksumRight_sealFrame body, hreg.trans (checksumOf_sealFrame body).symm⟩

/-- R66, R134: a row with a check returns only what it builds when the check passes. -/
theorem buildFrame_of_ite {c : Prop} [Decidable c] {why : Refusal}
    (h : (if c then buildFrame body s else .refused why) = .next t) : buildFrame body s = .next t := by
  split at h
  · exact h
  · cases h

end

/-- Settles O26: a builder and its request row assemble the same body, the two set-LED rows behind a check, and each
of the three frames has its shape. -/
theorem builderOutputsAreWellFormed : Obligations.BuilderOutputsAreWellFormed := by
  intro s t i hi h
  obtain rfl | rfl | ⟨r, g, b, rfl⟩ | rfl | rfl | ⟨r, g, b, lo, hi, rfl⟩ := hi
  · exact buildFrame_wellFormed frameShape_rdLatest h
  · exact buildFrame_wellFormed frameShape_rdFlash h
  · exact buildFrame_wellFormed (frameShape_setLed _ _ _) (buildFrame_of_ite h)
  · exact buildFrame_wellFormed frameShape_rdLatest h
  · exact buildFrame_wellFormed frameShape_rdFlash h
  · exact buildFrame_wellFormed (frameShape_setLed _ _ _) (buildFrame_of_ite h)

end Sys2Proof.Machine

/-! ### The bytes of a frame by offset (R60, R70, R110) -/

namespace Sys2Proof.Machine

open Reference

section

variable {bs : List Byte} {off : Nat}

/-- A slice inside the sequence begins with the byte at its offset. -/
theorem slice_succ (h : off < bs.length) (n : Nat) :
    slice bs off (off + (n + 1)) = byteAt bs off :: slice bs (off + 1) (off + 1 + n) := by
  rw [slice_eq_take_drop, slice_eq_take_drop, List.drop_eq_getElem_cons h, List.take_succ_cons, byteAt,
    List.getD_eq_getElem _ _ h]

theorem slice_one (h : off + 1 ≤ bs.length) : slice bs off (off + 1) = [byteAt bs off] := by
  rw [slice_succ h 0, slice_eq_take_drop, List.take_zero]

theorem slice_two (h : off + 2 ≤ bs.length) : slice bs off (off + 2) = [byteAt bs off, byteAt bs (off + 1)] := by
  rw [slice_succ (Nat.lt_of_succ_lt h) 1, slice_one h]

theorem slice_four (h : off + 4 ≤ bs.length) :
    slice bs off (off + 4) = [byteAt bs off, byteAt bs (off + 1), byteAt bs (off + 2), byteAt bs (off + 3)] := by
  rw [slice_succ (by omega) 3, slice_succ (by omega) 2, slice_two (by omega)]

/-- A byte that is not zero stands inside the sequence. -/
theorem lt_length_of_byteAt_ne_zero (h : byteAt bs off ≠ 0#8) : off < bs.length := by
  by_contra hpast
  exact h (List.getD_eq_default _ _ (Nat.le_of_not_lt hpast))

/-- R112: a one-byte read. -/
theorem readU8_eq (h : off + 1 ≤ bs.length) : readU8 bs off = .ok (byteAt bs off) := by
  simp [readU8, memRead_of_le h, slice_one h, Except.map]

/-- R113: a two-byte read, low byte first. -/
theorem readU16_eq (h : off + 2 ≤ bs.length) : readU16 bs off = .ok (u16 (byteAt bs off) (byteAt bs (off + 1))) := by
  rw [readU16, memRead_of_le h, slice_two h]
  exact congrArg Except.ok (wordOfLe_eq _ _)

/-- R70: two words with the same image have the same bytes. -/
theorem u16_inj {lo hi lo' hi' : Byte} : u16 lo hi = u16 lo' hi' ↔ lo = lo' ∧ hi = hi' := by
  constructor
  · intro h
    rw [u16, u16, ← wordOfLe_eq, ← wordOfLe_eq, ← leWord_eq_pair_iff, leWord_wordOfLe] at h
    simpa using h.symm
  · rintro ⟨rfl, rfl⟩
    rfl

end

/-! ### The four checks of PARSE (R144 to R148) -/

section

variable {bs : List Byte}

/-- R146: the header by its two bytes. -/
theorem hasHeader_iff (h : 4 ≤ bs.length) : hasHeader bs = true ↔ byteAt bs 0 = 0x52#8 ∧ byteAt bs 1 = 0x42#8 := by
  have htake : bs.take 2 = [byteAt bs 0, byteAt bs 1] := slice_two (off := 0) (by omega)
  simp [hasHeader, htake, Config.header, Config.hdr0, Config.hdr1]

/-- R147: the announced size by the two bytes of the length field. -/
theorem packetSize_eq (h : 4 ≤ bs.length) : packetSize bs = (u16 (byteAt bs 2) (byteAt bs 3)).toNat + 4 := by
  have hfield : lengthField bs = (u16 (byteAt bs 2) (byteAt bs 3)).toNat := by
    rw [lengthField, lengthOffset, slice_two h, fromLe_pair, u16]
  rw [packetSize, hfield, Config.lenBias]

/-- R184: the shape of a frame by its first four bytes. -/
theorem frameShape_iff : FrameShape bs ↔ 4 ≤ bs.length ∧ byteAt bs 0 = 0x52#8 ∧ byteAt bs 1 = 0x42#8 ∧
    bs.length = (u16 (byteAt bs 2) (byteAt bs 3)).toNat + 4 := by
  constructor
  · rintro ⟨lo, hi, rest, rfl, hlen⟩
    exact ⟨by simp, rfl, rfl, hlen⟩
  · rintro ⟨hfour, h0, h1, hlen⟩
    match bs, hfour with
    | a :: b :: lo :: hi :: rest, _ =>
      cases h0
      cases h1
      exact ⟨lo, hi, rest, rfl, hlen⟩

/-- R145 to R147: steps 1 to 3 pass exactly on the sequences that have the shape of a frame. -/
theorem shapeError_eq_none_iff : shapeError bs = none ↔ FrameShape bs := by
  rw [frameShape_iff]
  obtain ⟨hlen, he⟩ | ⟨hlen, hheader, he⟩ | ⟨hlen, -, hsize, he⟩ | ⟨hlen, hheader, hsize, he⟩ := shapeError_cases bs
  · simp [he, Nat.not_le.mpr hlen]
  · have hbytes := mt (hasHeader_iff hlen).mpr (by simp [hheader])
    simp only [he, reduceCtorEq, false_iff]
    exact fun ⟨_, h0, h1, _⟩ => hbytes ⟨h0, h1⟩
  · rw [packetSize_eq hlen] at hsize
    simp [he, hsize]
  · obtain ⟨h0, h1⟩ := (hasHeader_iff hlen).mp hheader
    rw [packetSize_eq hlen] at hsize
    exact iff_of_true he ⟨hlen, h0, h1, hsize⟩

/-- R145: step 1. -/
theorem shapeError_of_short (h : bs.length < 4) : shapeError bs = some .truncated := if_pos h

/-- R146: steps 1 and 2 in order. -/
theorem shapeError_of_wrong_header (h : 4 ≤ bs.length) (hbytes : byteAt bs 0 ≠ 0x52#8 ∨ byteAt bs 1 ≠ 0x42#8) :
    shapeError bs = some .badHeader := by
  have hheader : ¬ hasHeader bs = true := by
    rw [hasHeader_iff h]
    exact not_and_or.mpr hbytes
  simp [shapeError, Config.minScan, Nat.not_lt.mpr h, hheader]

/-- R147: steps 1 to 3 in order. -/
theorem shapeError_of_wrong_length (h : 4 ≤ bs.length) (h0 : byteAt bs 0 = 0x52#8) (h1 : byteAt bs 1 = 0x42#8)
    (hlen : bs.length ≠ (u16 (byteAt bs 2) (byteAt bs 3)).toNat + 4) :
    shapeError bs = some (.lengthMismatch ((u16 (byteAt bs 2) (byteAt bs 3)).toNat + 4) bs.length) := by
  have hheader : hasHeader bs = true := (hasHeader_iff h).mpr ⟨h0, h1⟩
  simp [shapeError, Config.minScan, Nat.not_lt.mpr h, hheader, packetSize_eq h, hlen]

/-- R148: the last two bytes are split off in one way only. -/
theorem checksumRight_append_pair {covered : List Byte} {lo hi : Byte} :
    ChecksumRight (covered ++ [lo, hi]) ↔ u16 lo hi = crc16 covered := by
  constructor
  · rintro ⟨covered', lo', hi', hsplit, hright⟩
    obtain ⟨rfl, htail⟩ := List.append_inj' hsplit rfl
    cases htail
    exact hright
  · exact fun hright => ⟨covered, lo, hi, rfl, hright⟩

/-- A sequence of at least two bytes ends in a pair. -/
theorem exists_eq_append_pair (h : 2 ≤ bs.length) : ∃ covered lo hi, bs = covered ++ [lo, hi] := by
  obtain ⟨lo, hi, htail⟩ := List.length_eq_two.mp (show (bs.drop (bs.length - 2)).length = 2 by simp; omega)
  exact ⟨_, lo, hi, by rw [← htail, List.take_append_drop]⟩

/-- R148, R165: what step 4 computes on a frame, and what it decides. -/
theorem verifyChecksum_of_frameShape (h : FrameShape bs) :
    (verifyChecksum bs).computed = checksumOf bs ∧ ((verifyChecksum bs).ok = true ↔ ChecksumRight bs) := by
  obtain ⟨hfour, -⟩ := frameShape_iff.mp h
  obtain ⟨covered, lo, hi, rfl⟩ := exists_eq_append_pair (show 2 ≤ bs.length by omega)
  rw [verifyChecksum_append_pair, checksumRight_append_pair, decide_eq_true_iff]
  exact ⟨by simp [checksumOf], eq_comm⟩

end

/-! ### PARSE, one equation per end of the four checks (R165) -/

section

variable {bs : List Byte} (s : State)

/-- R140: a PARSE returns the outcome of its bytes and writes at most `reg`. -/
theorem exec_parse (bs : List Byte) :
    exec (.parse bs) s = .next { s with reg := (parseFrame s.reg bs).1, out := .parsed (parseFrame s.reg bs).2 } := rfl

/-- R144: the first of steps 1 to 3 that fails ends the operation before `reg` is written. -/
theorem exec_parse_of_shapeError {e : FrameError} (h : shapeError bs = some e) :
    exec (.parse bs) s = .next { s with out := .parsed (.error e) } := by
  have hparse : parseFrame s.reg bs = (s.reg, .error e) := by simp only [parseFrame, h]
  rw [exec_parse, hparse]

/-- R148: past steps 1 to 3, step 4 writes `reg` and decides between the rejection and the dispatch. -/
theorem parseFrame_of_frameShape (r : Word) (h : FrameShape bs) : parseFrame r bs =
    (checksumOf bs, if (verifyChecksum bs).ok then dispatchAddress bs else .error .checksumMismatch) := by
  obtain ⟨hcomputed, -⟩ := verifyChecksum_of_frameShape h
  simp only [parseFrame, shapeError_eq_none_iff.mpr h, hcomputed]

/-- R148: step 4 is a hard rejection. -/
theorem exec_parse_of_wrong_checksum (hshape : FrameShape bs) (hwrong : ¬ ChecksumRight bs) :
    exec (.parse bs) s = .next { s with reg := checksumOf bs, out := .parsed (.error .checksumMismatch) } := by
  obtain ⟨-, hok⟩ := verifyChecksum_of_frameShape hshape
  rw [exec_parse, parseFrame_of_frameShape _ hshape, if_neg (mt hok.mp hwrong)]

/-- R149: a frame that passes the four checks is dispatched on its address. -/
theorem exec_parse_of_checks (hshape : FrameShape bs) (hright : ChecksumRight bs) :
    exec (.parse bs) s = .next { s with reg := checksumOf bs, out := .parsed (dispatchAddress bs) } := by
  obtain ⟨-, hok⟩ := verifyChecksum_of_frameShape hshape
  rw [exec_parse, parseFrame_of_frameShape _ hshape, if_pos (hok.mpr hright)]

end

/-- Settles O27: the first three clauses are the failures of steps 1 to 3, the fourth that of step 4. -/
theorem parseReportsTheFirstFailingCheck : Obligations.ParseReportsTheFirstFailingCheck :=
  fun s _ =>
    ⟨fun h => exec_parse_of_shapeError s (shapeError_of_short h),
      fun h hbytes => exec_parse_of_shapeError s (shapeError_of_wrong_header h hbytes),
      fun h h0 h1 hlen => exec_parse_of_shapeError s (shapeError_of_wrong_length h h0 h1 hlen),
      exec_parse_of_wrong_checksum s⟩

/-- Settles O34: the outcome does not depend on the register (`parseFrame_outcome_indep`), and PARSE reads nothing
else of the state. -/
theorem parseOutcomeDependsOnTheBytesAlone : Obligations.ParseOutcomeDependsOnTheBytesAlone := by
  intro bs
  refine ⟨(parseFrame 0 bs).2, fun s => ⟨(parseFrame s.reg bs).1, ?_⟩⟩
  rw [exec_parse, parseFrame_outcome_indep s.reg 0 bs]

/-! ### The dispatch on the address (R149, R160 to R162) -/

section

variable {bs : List Byte}

/-- R160 (a): a sequence without a whole address field. -/
theorem dispatchAddress_of_short (h : bs.length < 7) :
    dispatchAddress bs = .error (.outOfRange (.fieldOutOfRange 5 2)) := by
  have hread : readU16 bs addressOffset = .error (.fieldOutOfRange 5 2) := by
    rw [readU16, addressOffset, memRead_past_end h]
    rfl
  simp only [dispatchAddress, hread]

/-- R149: the dispatch, by the two bytes of the address. -/
theorem dispatchAddress_eq (h : 7 ≤ bs.length) : dispatchAddress bs =
    if u16 (byteAt bs 5) (byteAt bs 6) = Config.addrLatest then .ofReads ((sensorReading bs).map .sensor)
    else if u16 (byteAt bs 5) (byteAt bs 6) = Config.addrLed ∨ u16 (byteAt bs 5) (byteAt bs 6) = Config.addrFlash then
      .ofReads ((readU8 bs dataOffset).map .status)
    else .error (.unknownAddress (u16 (byteAt bs 5) (byteAt bs 6))) := by
  have hread : readU16 bs addressOffset = .ok (u16 (byteAt bs 5) (byteAt bs 6)) := readU16_eq h
  simp only [dispatchAddress, hread]

/-- R150: address bytes `22 50`. -/
theorem dispatchAddress_sensor (h5 : byteAt bs 5 = 0x22#8) (h6 : byteAt bs 6 = 0x50#8) :
    dispatchAddress bs = .ofReads ((sensorReading bs).map .sensor) := by
  have hseven : 7 ≤ bs.length := lt_length_of_byteAt_ne_zero (by simp [h6])
  rw [dispatchAddress_eq hseven, h5, h6]
  exact if_pos rfl

/-- R161: address bytes `11 51` or `03 54`, with the status byte inside. -/
theorem dispatchAddress_status (h : 8 ≤ bs.length)
    (haddr : (byteAt bs 5 = 0x11#8 ∧ byteAt bs 6 = 0x51#8) ∨ (byteAt bs 5 = 0x03#8 ∧ byteAt bs 6 = 0x54#8)) :
    dispatchAddress bs = .decoded (.status (byteAt bs 7)) := by
  have hread : readU8 bs dataOffset = .ok (byteAt bs 7) := readU8_eq h
  rw [dispatchAddress_eq (Nat.le_of_succ_le h), hread]
  obtain ⟨h5, h6⟩ | ⟨h5, h6⟩ := haddr <;> rw [h5, h6] <;> rfl

/-- R162: none of the three known addresses. -/
theorem dispatchAddress_unknown (h : 7 ≤ bs.length)
    (haddr : u16 (byteAt bs 5) (byteAt bs 6) ∉ [Config.addrLatest, Config.addrLed, Config.addrFlash]) :
    dispatchAddress bs = .error (.unknownAddress (u16 (byteAt bs 5) (byteAt bs 6))) := by
  simp only [List.mem_cons, List.not_mem_nil, or_false, not_or] at haddr
  obtain ⟨hlatest, hled, hflash⟩ := haddr
  rw [dispatchAddress_eq h, if_neg hlatest, if_neg (not_or.mpr ⟨hled, hflash⟩)]

/-- R160, R162: an arm that reads fields ends in a response or in the fault of a read. -/
theorem ofReads_ne_unknownAddress (x : Except Fault DecodedResponse) (address : Word) :
    ParseOutcome.ofReads x ≠ .error (.unknownAddress address) := by
  cases x <;> simp [ParseOutcome.ofReads]

/-- R162: the dispatch reports an address only as the last of its arms. -/
theorem unknownAddress_of_dispatchAddress {address : Word}
    (h : dispatchAddress bs = .error (.unknownAddress address)) :
    7 ≤ bs.length ∧ address = u16 (byteAt bs 5) (byteAt bs 6) ∧
      address ∉ [Config.addrLatest, Config.addrLed, Config.addrFlash] := by
  by_cases hseven : 7 ≤ bs.length
  · rw [dispatchAddress_eq hseven] at h
    split at h
    · exact absurd h (ofReads_ne_unknownAddress _ _)
    next hlatest =>
      split at h
      · exact absurd h (ofReads_ne_unknownAddress _ _)
      next hothers =>
        cases h
        exact ⟨hseven, rfl, by simpa [hlatest] using hothers⟩
  · rw [dispatchAddress_of_short (Nat.lt_of_not_le hseven)] at h
    cases h

/-- R162: PARSE ends in UnknownAddress only where the four checks passed and the dispatch did. -/
theorem dispatchAddress_of_parseFrame {r : Word} {address : Word}
    (h : (parseFrame r bs).2 = .error (.unknownAddress address)) :
    FrameShape bs ∧ ChecksumRight bs ∧ dispatchAddress bs = .error (.unknownAddress address) := by
  obtain ⟨e, he, hparse⟩ | ⟨-, -, hparse⟩ | ⟨hshape, hok, hparse⟩ := parseFrame_cases r bs
  · rw [hparse] at h
    cases h
    obtain ⟨-, he'⟩ | ⟨-, -, he'⟩ | ⟨-, -, -, he'⟩ | ⟨-, -, -, he'⟩ := shapeError_cases bs <;> cases he.symm.trans he'
  · rw [hparse] at h
    cases h
  · rw [hparse] at h
    have hframe := shapeError_eq_none_iff.mp hshape
    obtain ⟨-, hright⟩ := verifyChecksum_of_frameShape hframe
    exact ⟨hframe, hright.mp hok, h⟩

end

/-- Settles O31: the last arm of the dispatch, and the one way to reach it. -/
theorem parseReportsTheUnknownAddress : Obligations.ParseReportsTheUnknownAddress := by
  refine ⟨fun s bs hshape hright hseven haddr => ?_, fun s t bs address hparse hout => ?_⟩
  · rw [exec_parse_of_checks s hshape hright, dispatchAddress_unknown hseven haddr]
  · cases (exec_parse s bs).symm.trans hparse
    obtain ⟨hshape, hright, hdispatch⟩ := dispatchAddress_of_parseFrame (Result.parsed.inj hout)
    exact ⟨hshape, hright, unknownAddress_of_dispatchAddress hdispatch⟩

/-! ### The shortest frames (R160, R161) -/

/-- R70: a word below 256 has a zero high byte. -/
theorem eq_bytes_of_toNat_u16 {lo hi : Byte} {n : Nat} (h : (u16 lo hi).toNat = n) (hn : n < 256) :
    lo = BitVec.ofNat 8 n ∧ hi = 0#8 := by
  refine u16_inj.mp (BitVec.eq_of_toNat_eq (h.trans ?_))
  rw [u16, toNat_append_eq_add, BitVec.toNat_ofNat, Nat.mod_eq_of_lt hn]
  rfl

/-- R160: the length field of a frame of fewer than 7 bytes leaves three sequences, of 4, 5 and 6 bytes. The checksum
of the first two is wrong, whatever the fifth byte, and that of the third fixes its last two bytes. -/
theorem eq_of_short_frame {bs : List Byte} (hshape : FrameShape bs) (hright : ChecksumRight bs)
    (hshort : bs.length < 7) : bs = [0x52#8, 0x42#8, 0x02#8, 0x00#8, 0xB1#8, 0xE8#8] := by
  obtain ⟨lo, hi, rest, rfl, hlen⟩ := hshape
  have hfield : (u16 lo hi).toNat = rest.length := by simpa using hlen.symm
  match rest, hshort with
  | [], _ =>
    obtain ⟨rfl, rfl⟩ := eq_bytes_of_toNat_u16 hfield (by decide)
    have hpair := checksumRight_append_pair (covered := [0x52#8, 0x42#8]).mp hright
    exact absurd hpair (by decide +kernel)
  | [x], _ =>
    obtain ⟨rfl, rfl⟩ := eq_bytes_of_toNat_u16 (n := 1) hfield (by decide)
    have hpair := checksumRight_append_pair (covered := [0x52#8, 0x42#8, 0x01#8]).mp hright
    have hwrong : ∀ x : Byte, u16 0x00#8 x ≠ crc16 [0x52#8, 0x42#8, 0x01#8] := by decide +kernel
    exact absurd hpair (hwrong x)
  | [x, y], _ =>
    obtain ⟨rfl, rfl⟩ := eq_bytes_of_toNat_u16 (n := 2) hfield (by decide)
    have hpair := checksumRight_append_pair (covered := [0x52#8, 0x42#8, 0x02#8, 0x00#8]).mp hright
    have hcrc : crc16 [0x52#8, 0x42#8, 0x02#8, 0x00#8] = u16 0xB1#8 0xE8#8 := by decide +kernel
    obtain ⟨rfl, rfl⟩ := u16_inj.mp (hpair.trans hcrc)
    rfl

/-- R160: the one short frame passes the four checks. -/
theorem short_frame_passes : FrameShape [0x52#8, 0x42#8, 0x02#8, 0x00#8, 0xB1#8, 0xE8#8] ∧
    ChecksumRight [0x52#8, 0x42#8, 0x02#8, 0x00#8, 0xB1#8, 0xE8#8] :=
  ⟨⟨_, _, _, rfl, by decide⟩, [0x52#8, 0x42#8, 0x02#8, 0x00#8], _, _, rfl, by decide +kernel⟩

/-- Settles O32: `eq_of_short_frame`, and the dispatch of that frame has no whole address to read. -/
theorem onlyOneShortFrameReachesTheDispatch : Obligations.OnlyOneShortFrameReachesTheDispatch := by
  refine ⟨fun bs => eq_of_short_frame, fun s => ?_⟩
  obtain ⟨hshape, hright⟩ := short_frame_passes
  have hcrc : checksumOf [0x52#8, 0x42#8, 0x02#8, 0x00#8, 0xB1#8, 0xE8#8] = 0xE8B1#16 := by decide +kernel
  rw [exec_parse_of_checks s hshape hright, dispatchAddress_of_short (by decide), hcrc]

/-- R161: the last two bytes of a frame of 7 bytes are both its address and its checksum, and no command byte makes
them a status address. -/
theorem crc16_seven_ne_status (command : Byte) :
    crc16 [0x52#8, 0x42#8, 0x03#8, 0x00#8, command] ≠ u16 0x11#8 0x51#8 ∧
      crc16 [0x52#8, 0x42#8, 0x03#8, 0x00#8, command] ≠ u16 0x03#8 0x54#8 := by
  revert command
  decide +kernel

/-- R161: every frame with a status address that passes the four checks has the status byte. -/
theorem eight_le_length_of_status {bs : List Byte} (hshape : FrameShape bs) (hright : ChecksumRight bs)
    (haddr : (byteAt bs 5 = 0x11#8 ∧ byteAt bs 6 = 0x51#8) ∨ (byteAt bs 5 = 0x03#8 ∧ byteAt bs 6 = 0x54#8)) :
    8 ≤ bs.length := by
  have hsix : 6 < bs.length := lt_length_of_byteAt_ne_zero (by obtain ⟨-, h⟩ | ⟨-, h⟩ := haddr <;> simp [h])
  by_contra hseven
  obtain ⟨lo, hi, rest, rfl, hlen⟩ := hshape
  have hfield : (u16 lo hi).toNat = rest.length := by simpa using hlen.symm
  match rest, hsix, hseven with
  | [command, a0, a1], _, _ =>
    obtain ⟨rfl, rfl⟩ := eq_bytes_of_toNat_u16 (n := 3) hfield (by decide)
    have hpair := checksumRight_append_pair (covered := [0x52#8, 0x42#8, 0x03#8, 0x00#8, command]).mp hright
    obtain ⟨hled, hflash⟩ := crc16_seven_ne_status command
    obtain ⟨rfl, rfl⟩ | ⟨rfl, rfl⟩ : (a0 = 0x11#8 ∧ a1 = 0x51#8) ∨ (a0 = 0x03#8 ∧ a1 = 0x54#8) := haddr
    · exact hled hpair.symm
    · exact hflash hpair.symm
  | _ :: _ :: _ :: _ :: _, _, hseven => exact hseven (by simp)

/-- Settles O30: the frame is long enough, and its dispatch takes the status arm. -/
theorem parseReadsTheStatusByte : Obligations.ParseReadsTheStatusByte := by
  intro s bs hshape hright haddr
  have height := eight_le_length_of_status hshape hright haddr
  refine ⟨height, ?_⟩
  rw [exec_parse_of_checks s hshape hright, dispatchAddress_status height haddr]

/-! ### The reads of the sensor arm (R150 to R160) -/

section

variable {bs : List Byte}

/-- R151: the raw integer of an `i16` field. -/
theorem sext_slice_two {off : Nat} (h : off + 2 ≤ bs.length) :
    sext 16 (fromLe (slice bs off (off + 2))) = i16 (byteAt bs off) (byteAt bs (off + 1)) := by
  rw [slice_two h, fromLe_pair]
  exact sext_toNat _

/-- R154: the raw integer of an `i32` field. -/
theorem sext_slice_four {off : Nat} (h : off + 4 ≤ bs.length) : sext 32 (fromLe (slice bs off (off + 4))) =
    i32 (byteAt bs off) (byteAt bs (off + 1)) (byteAt bs (off + 2)) (byteAt bs (off + 3)) := by
  rw [slice_four h, fromLe_quad]
  exact sext_toNat _

/-- R68: a field whose bytes lie inside the frame is read with its raw type and divisor. -/
theorem readField_eq (f : SensorField) (h : f.offset + f.rawType.size ≤ bs.length) :
    readField bs f = .ok ((sensorOf bs).field f) := by
  rw [readField, memRead_of_le h]
  cases f with
  | sequenceNumber =>
    have hraw : fromLe (slice bs 7 (7 + 1)) = (byteAt bs 7).toNat := by
      rw [slice_one (off := 7) h]
      simp
    exact congrArg (fun raw : Nat => Except.ok (Scaled.mk raw _)) hraw
  | pressure => exact congrArg (fun raw => Except.ok (Scaled.mk raw _)) (sext_slice_four h)
  | _ => exact congrArg (fun raw => Except.ok (Scaled.mk raw _)) (sext_slice_two h)

/-- R150 to R159: the ten reads of a frame of at least 28 bytes. -/
theorem sensorReading_of_long (h : 28 ≤ bs.length) : sensorReading bs = .ok (sensorOf bs) := by
  have hread (f : SensorField) : readField bs f = .ok ((sensorOf bs).field f) :=
    readField_eq f (le_trans (by cases f <;> decide) h)
  simp only [sensorReading, hread]
  rfl

/-- R160 (b): the computation makes these reads first, in this order, so that the first of them that passes the end
is the fault it raises. -/
def RaisesFirstOf (bs : List Byte) (reads : List (Nat × Nat)) {α : Type} (x : Except Fault α) : Prop :=
  ∀ read, reads.find? (fun p => decide (bs.length < p.1 + p.2)) = some read →
    x = .error (.fieldOutOfRange read.1 read.2)

theorem RaisesFirstOf.nil {α : Type} (x : Except Fault α) : RaisesFirstOf bs [] x := by
  intro read hread
  cases hread

/-- One field read before the others. -/
theorem RaisesFirstOf.readField_bind {α : Type} (f : SensorField) {reads : List (Nat × Nat)}
    {rest : Scaled → Except Fault α} (h : ∀ v, RaisesFirstOf bs reads (rest v)) :
    RaisesFirstOf bs ((f.offset, f.rawType.size) :: reads) (readField bs f >>= rest) := by
  intro read hread
  obtain ⟨hinside, hok⟩ | ⟨hpast, herror⟩ := memRead_cases bs f.offset f.rawType.size
  · rw [List.find?_cons_of_neg (by simpa using hinside)] at hread
    rw [readField, hok]
    exact h _ read hread
  · rw [List.find?_cons_of_pos (by simpa using hpast)] at hread
    cases hread
    rw [readField, herror]
    rfl

/-- R160 (b): the ten reads are those of the list, in its order. -/
theorem sensorReading_raisesFirstOf (bs : List Byte) : RaisesFirstOf bs sensorReads (sensorReading bs) :=
  .readField_bind .sequenceNumber fun _ => .readField_bind .temperature fun _ => .readField_bind .humidity fun _ =>
  .readField_bind .ambientLight fun _ => .readField_bind .pressure fun _ => .readField_bind .noise fun _ =>
  .readField_bind .etvoc fun _ => .readField_bind .eco2 fun _ => .readField_bind .discomfortIndex fun _ =>
  .readField_bind .heatStroke fun _ => .nil _

/-- R160: in a frame of fewer than 28 bytes at least the last read passes the end. -/
theorem exists_first_failing_read (h : bs.length < 28) :
    ∃ read, sensorReads.find? (fun p => decide (bs.length < p.1 + p.2)) = some read :=
  Option.isSome_iff_exists.mp (List.find?_isSome.mpr ⟨(26, 2), by decide, decide_eq_true h⟩)

end

/-- Settles O28: the dispatch takes the sensor arm, whose ten reads succeed. -/
theorem parseDecodesTheSensorReading : Obligations.ParseDecodesTheSensorReading := by
  intro s bs hshape hright hlong h5 h6
  rw [exec_parse_of_checks s hshape hright, dispatchAddress_sensor h5 h6, sensorReading_of_long hlong]
  rfl

/-- Settles O29: the dispatch takes the sensor arm, one of whose reads passes the end, and the first that does is the
fault (`sensorReading_raisesFirstOf`). -/
theorem shortSensorFrameNamesTheFirstFailingRead : Obligations.ShortSensorFrameNamesTheFirstFailingRead := by
  intro s bs hshape hright hshort h5 h6
  obtain ⟨read, hread⟩ := exists_first_failing_read hshort
  refine ⟨read, hread, ?_⟩
  rw [exec_parse_of_checks s hshape hright, dispatchAddress_sensor h5 h6, sensorReading_raisesFirstOf bs read hread]
  rfl

/-! ### PARSE of the block's own requests (R166) -/

/-- R136, R166: the frame that a builder returned passes the four checks, and PARSE of it leaves the register. -/
theorem exec_parse_of_built {body bs : List Byte} {s t : State} (hshape : FrameShape (sealFrame body))
    (hbuild : buildFrame body s = .next t) (hout : t.out = .bytes bs) :
    exec (.parse bs) t = .next { t with out := .parsed (dispatchAddress (sealFrame body)) } := by
  obtain ⟨-, hreg, -, hbytes⟩ := buildFrame_eq_next.mp hbuild
  cases hbytes.symm.trans hout
  rw [exec_parse_of_checks t hshape (checksumRight_sealFrame body), checksumOf_sealFrame, ← hreg]

/-- R166: the nine bytes end in their checksum at offset 8, where the second field would begin. -/
theorem dispatchAddress_rdLatest :
    dispatchAddress (sealFrame rdLatestBody) = .error (.outOfRange (.fieldOutOfRange 8 2)) := by
  rw [sealFrame_rdLatestBody, dispatchAddress_sensor rfl rfl, sensorReading_raisesFirstOf _ (8, 2) rfl]
  rfl

/-- R166: the low byte of the checksum stands where the status would. -/
theorem dispatchAddress_rdFlash : dispatchAddress (sealFrame rdFlashBody) = .decoded (.status 0xFB#8) := by
  rw [sealFrame_rdFlashBody]
  exact dispatchAddress_status (by decide) (.inr ⟨rfl, rfl⟩)

/-- R166: the low byte of `display_rule` stands where the status would, before the channels. -/
theorem dispatchAddress_setLed (red green blue : Byte) :
    dispatchAddress (sealFrame (setLedBody red green blue)) = .decoded (.status 0x01#8) := by
  rw [setLedBody_eq]
  exact dispatchAddress_status (by simp [sealFrame, setLedTwelve]) (.inl ⟨rfl, rfl⟩)

/-- Settles O35: the three requests pass the checks, and are dispatched on the addresses that their builders wrote. -/
theorem echoedRequestsParseAsResponses : Obligations.EchoedRequestsParseAsResponses := by
  refine ⟨fun s t bs hbuild hout => ?_, fun s t bs hbuild hout => ?_, fun s t red green blue bs hbuild hout => ?_⟩
  · rw [exec_parse_of_built frameShape_rdLatest hbuild hout, dispatchAddress_rdLatest]
  · rw [exec_parse_of_built frameShape_rdFlash hbuild hout, dispatchAddress_rdFlash]
  · rw [exec_parse_of_built (frameShape_setLed _ _ _) (buildFrame_of_ite hbuild) hout, dispatchAddress_setLed]

end Sys2Proof.Machine

/-! ### The loop of FEED and the relation that describes it (R172 to R178, R182) -/

namespace Sys2Proof.Machine

open Reference

/-- R173: the scan finds nothing exactly where the reference sees no header. -/
theorem findHeader_eq_none_iff_noHeader {buf : List Byte} : findHeader buf = none ↔ NoHeader buf :=
  findHeader_eq_none_iff buf

/-- R173: the scan finds the first header of the reference. -/
theorem findHeader_eq_some_iff_headerAt {buf : List Byte} {i : Nat} :
    findHeader buf = some i ↔ HeaderAt buf i ∧ ∀ j, j < i → ¬ HeaderAt buf j :=
  findHeader_eq_some_iff buf i

/-- R62: at least four bytes with a header at the head, written out up to the length field. -/
theorem exists_eq_of_hasHeader {buf : List Byte} (hlen : 4 ≤ buf.length) (hheader : hasHeader buf = true) :
    ∃ lo hi rest, buf = 0x52#8 :: 0x42#8 :: lo :: hi :: rest := by
  obtain ⟨h0, h1⟩ := (hasHeader_iff hlen).mp hheader
  match buf, hlen with
  | a :: b :: lo :: hi :: rest, _ =>
    cases h0
    cases h1
    exact ⟨lo, hi, rest, rfl⟩

/-- R176: the size announced at the head of a buffer. -/
theorem packetSize_cons (lo hi : Byte) (rest : List Byte) :
    packetSize (0x52#8 :: 0x42#8 :: lo :: hi :: rest) = (u16 lo hi).toNat + 4 :=
  packetSize_eq (by simp)

/-- R177: the bytes cut by the announced size have the shape of a frame. -/
theorem frameShape_take {lo hi : Byte} {rest : List Byte} (h : (u16 lo hi).toNat ≤ rest.length) :
    FrameShape ((0x52#8 :: 0x42#8 :: lo :: hi :: rest).take ((u16 lo hi).toNat + 4)) :=
  ⟨lo, hi, rest.take (u16 lo hi).toNat, rfl, by simpa using h⟩

/-- R176: a frame has at least the four bytes that announce its size. -/
theorem four_le_length_of_frameShape {frame : List Byte} (h : FrameShape frame) : 4 ≤ frame.length :=
  (frameShape_iff.mp h).1

/-! #### One equation of `iteration` per exit and continuing edge -/

theorem iteration_of_short {buf : List Byte} (h : buf.length < 4) : iteration buf = .exit buf := if_pos h

theorem iteration_of_noHeader {buf : List Byte} (hlen : 4 ≤ buf.length) (hno : NoHeader buf) :
    iteration buf = .exit (keepSplitHeader buf) := by
  simp [iteration, Config.minScan, Nat.not_lt.mpr hlen, findHeader_eq_none_iff_noHeader.mpr hno]

theorem iteration_of_headerAt {buf : List Byte} {i : Nat} (hlen : 4 ≤ buf.length) (hi : HeaderAt buf i)
    (hfirst : ∀ j, j < i → ¬ HeaderAt buf j) (hpos : 0 < i) : iteration buf = .dropPrefix (buf.drop i) := by
  obtain ⟨k, rfl⟩ := Nat.exists_eq_succ_of_ne_zero hpos.ne'
  simp [iteration, Config.minScan, Nat.not_lt.mpr hlen, findHeader_eq_some_iff_headerAt.mpr ⟨hi, hfirst⟩]

theorem iteration_of_stall {lo hi : Byte} {rest : List Byte}
    (h : (0x52#8 :: 0x42#8 :: lo :: hi :: rest).length < (u16 lo hi).toNat + 4) :
    iteration (0x52#8 :: 0x42#8 :: lo :: hi :: rest) = .exit (0x52#8 :: 0x42#8 :: lo :: hi :: rest) := by
  rw [← packetSize_cons lo hi rest] at h
  simpa [iteration, Config.minScan, findHeader, Config.hdr0, Config.hdr1] using h

theorem iteration_of_frameShape {frame : List Byte} (h : FrameShape frame) (after : List Byte) :
    iteration (frame ++ after) = .yieldFrame frame after := by
  obtain ⟨lo, hi, rest, rfl, hlen⟩ := h
  have hsize : packetSize (0x52#8 :: 0x42#8 :: lo :: hi :: (rest ++ after)) =
      (0x52#8 :: 0x42#8 :: lo :: hi :: rest).length := (packetSize_cons lo hi _).trans hlen.symm
  simp [iteration, Config.minScan, findHeader, Config.hdr0, Config.hdr1, hsize]

theorem keepSplitHeader_of_last {buf : List Byte} (h : buf.getLast? = some 0x52#8) :
    keepSplitHeader buf = [0x52#8] := if_pos h

theorem keepSplitHeader_of_not_last {buf : List Byte} (h : buf.getLast? ≠ some 0x52#8) : keepSplitHeader buf = [] :=
  if_neg h

/-! #### The relation and the function agree -/

/-- R182: the loop ends from every buffer, with what FEED returns and leaves. -/
theorem feedRuns_feedBytes (buf : List Byte) : FeedRuns buf (feedBytes buf []).1 (feedBytes buf []).2 := by
  induction hn : buf.length using Nat.strong_induction_on generalizing buf with
  | _ n ih =>
    subst hn
    rw [feedBytes_unfold, List.append_nil]
    obtain ⟨hlen, hit⟩ | ⟨hlen, hnone, hit⟩ | ⟨i, hlen, hsome, hit⟩ | ⟨hlen, hzero, hstall, hit⟩ |
      ⟨hlen, hzero, hwhole, hit⟩ := iteration_cases buf <;> rw [hit]
    · exact .short buf hlen
    · have hno := findHeader_eq_none_iff_noHeader.mp hnone
      by_cases hlast : buf.getLast? = some 0x52#8
      · simpa only [keepSplitHeader_of_last hlast] using .keepLast buf hlen hno hlast
      · simpa only [keepSplitHeader_of_not_last hlast] using .discard buf hlen hno hlast
    · have hshrinks := (iteration_shrinks buf _).1 hit
      obtain ⟨hat, hfirst⟩ := findHeader_eq_some_iff_headerAt.mp hsome
      exact .dropPrefix buf _ _ _ hlen hat hfirst i.succ_pos (ih _ hshrinks _ rfl)
    · obtain ⟨lo, hi, rest, rfl⟩ := exists_eq_of_hasHeader hlen ((findHeader_eq_some_zero_iff buf).mp hzero)
      exact .stall lo hi rest (packetSize_cons lo hi rest ▸ hstall)
    · have hshrinks := (iteration_shrinks buf _).2 _ hit
      obtain ⟨lo, hi, rest, rfl⟩ := exists_eq_of_hasHeader hlen ((findHeader_eq_some_zero_iff buf).mp hzero)
      rw [packetSize_cons] at hwhole hshrinks ⊢
      have hrun := FeedRuns.extract _ _ _ _ (frameShape_take (by simpa using hwhole)) (ih _ hshrinks _ rfl)
      rwa [List.take_append_drop] at hrun

/-- R178: every finite run of the loop is the one that FEED makes. -/
theorem feedBytes_eq_of_feedRuns {buf left : List Byte} {frames : List (List Byte)} (h : FeedRuns buf frames left) :
    feedBytes buf [] = (frames, left) := by
  induction h with rw [feedBytes_unfold, List.append_nil]
  | short buf hlen => rw [iteration_of_short hlen]
  | keepLast buf hlen hno hlast => rw [iteration_of_noHeader hlen hno, keepSplitHeader_of_last hlast]
  | discard buf hlen hno hlast => rw [iteration_of_noHeader hlen hno, keepSplitHeader_of_not_last hlast]
  | dropPrefix buf i frames left hlen hat hfirst hpos _ ih =>
    rw [iteration_of_headerAt hlen hat hfirst hpos]
    exact ih
  | stall lo hi rest hlen => rw [iteration_of_stall hlen]
  | extract frame after frames left hshape _ ih =>
    rw [iteration_of_frameShape hshape]
    simp only [ih]

/-- R178: FEED, by any run of the loop from the old buffer with the chunk appended. -/
theorem exec_feed_of_feedRuns {s : State} {chunk left : List Byte} {frames : List (List Byte)}
    (h : FeedRuns (s.buf ++ chunk) frames left) :
    exec (.feed chunk) s = .next { s with buf := left, out := .frames frames } := by
  rw [exec_feed, feedBytes_append, feedBytes_eq_of_feedRuns h]
  rfl

/-- R178: what a FEED returned and left is a run of the loop. -/
theorem feedRuns_of_exec_feed {s t : State} {chunk : List Byte} {frames : List (List Byte)}
    (h : exec (.feed chunk) s = .next t) (hout : t.out = .frames frames) :
    FeedRuns (s.buf ++ chunk) frames t.buf := by
  have hrun := feedRuns_feedBytes (s.buf ++ chunk)
  rw [← feedBytes_append] at hrun
  cases (exec_feed chunk s).symm.trans h
  cases hout
  exact hrun

/-- Settles O37: the loop ends (`feedRuns_feedBytes`), and the function follows every run (`exec_feed_of_feedRuns`). -/
theorem feedRunsTheLoop : Obligations.FeedRunsTheLoop :=
  fun s chunk => ⟨⟨_, _, feedRuns_feedBytes (s.buf ++ chunk)⟩, fun _ _ h => exec_feed_of_feedRuns h⟩

/-- Settles O48: the stall is one exit of the loop. -/
theorem stalledBufferKeepsEverything : Obligations.StalledBufferKeepsEverything := by
  intro s chunk lo hi rest hbuf hlen
  apply exec_feed_of_feedRuns
  rw [hbuf] at hlen ⊢
  exact .stall lo hi rest hlen

/-! ### What a run of the loop yields and leaves (R183 to R186, R189) -/

/-- R184: a frame is yielded only where its shape was seen. -/
theorem frameShape_of_mem_of_feedRuns {buf left : List Byte} {frames : List (List Byte)}
    (h : FeedRuns buf frames left) : ∀ f ∈ frames, FrameShape f := by
  induction h with
  | short | keepLast | discard | stall => simp
  | dropPrefix _ _ _ _ _ _ _ _ _ ih => exact ih
  | extract frame after frames left hshape _ ih => exact List.forall_mem_cons.mpr ⟨hshape, ih⟩

/-- R185: cases (a) and (c), by the bytes of the buffer. -/
theorem settled_iff {buf : List Byte} : settled buf = true ↔
    buf.length < 4 ∨
      ∃ lo hi rest, buf = 0x52#8 :: 0x42#8 :: lo :: hi :: rest ∧ buf.length < (u16 lo hi).toNat + 4 := by
  by_cases hshort : buf.length < 4
  · exact iff_of_true (by simp [settled, Config.minScan, hshort]) (.inl hshort)
  · have hlong : 4 ≤ buf.length := Nat.not_lt.mp hshort
    simp only [settled, Config.minScan, hshort, decide_false, Bool.false_or, false_or, Bool.and_eq_true,
      decide_eq_true_eq]
    constructor
    · rintro ⟨hheader, hlen⟩
      obtain ⟨lo, hi, rest, rfl⟩ := exists_eq_of_hasHeader hlong hheader
      exact ⟨lo, hi, rest, rfl, packetSize_cons lo hi rest ▸ hlen⟩
    · rintro ⟨lo, hi, rest, rfl, hlen⟩
      exact ⟨rfl, (packetSize_cons lo hi rest).symm ▸ hlen⟩

/-- R185: every exit of the loop leaves a settled buffer. -/
theorem settled_of_feedRuns {buf left : List Byte} {frames : List (List Byte)} (h : FeedRuns buf frames left) :
    settled left = true := by
  induction h with
  | short buf hlen => exact settled_iff.mpr (.inl hlen)
  | keepLast | discard => rfl
  | stall lo hi rest hlen => exact settled_iff.mpr (.inr ⟨lo, hi, rest, rfl, hlen⟩)
  | dropPrefix _ _ _ _ _ _ _ _ _ ih => exact ih
  | extract _ _ _ _ _ _ ih => exact ih

theorem settled_feedBytes (buf chunk : List Byte) : settled (feedBytes buf chunk).2 = true := by
  rw [feedBytes_append]
  exact settled_of_feedRuns (feedRuns_feedBytes _)

/-- R189: from a settled buffer the loop exits at once and keeps it. -/
theorem feedRuns_of_settled {buf : List Byte} (h : settled buf = true) : FeedRuns buf [] buf := by
  obtain hshort | ⟨lo, hi, rest, rfl, hlen⟩ := settled_iff.mp h
  · exact .short buf hshort
  · exact .stall lo hi rest hlen

/-- What the instructions of the SYNC unit leave in `buf` is settled (R181, R185). -/
theorem settled_of_exec_of_writesBuf {i : Instr} {s t : State} (hi : writesBuf i = true) (h : exec i s = .next t) :
    settled t.buf = true := by
  cases i with
  | feed chunk =>
    cases (exec_feed chunk s).symm.trans h
    exact settled_feedBytes s.buf chunk
  | rx chunk =>
    cases (exec_rx chunk s).symm.trans h
    exact settled_feedBytes s.buf chunk
  | syncReset =>
    cases (exec_syncReset s).symm.trans h
    rfl
  | _ => cases hi

/-- R22, R185: every instruction keeps a settled buffer. -/
theorem settled_of_exec {i : Instr} {s t : State} (hs : settled s.buf = true) (h : exec i s = .next t) :
    settled t.buf = true := by
  cases hi : writesBuf i with
  | true => exact settled_of_exec_of_writesBuf hi h
  | false => rwa [onlyTheSyncUnitWritesTheBuffer i s t hi h]

/-- Everything a step that answers a next state can have done (R7, R77, R231). -/
theorem step_eq_next_cases {s t : State} (h : step s = .next t) :
    (s.pending = [] ∧ t = s) ∨
      ∃ r rest i, s.pending = r :: rest ∧ decode r = .ok i ∧ exec i { s with pending := rest } = .next t := by
  cases hpending : s.pending with
  | nil =>
    cases (step_of_pending_nil hpending).symm.trans h
    exact .inl ⟨rfl, rfl⟩
  | cons r rest =>
    cases hdecode : decode r with
    | error e => cases (step_of_decode_error hpending hdecode).symm.trans h
    | ok i => exact .inr ⟨r, rest, i, rfl, hdecode, (step_of_decode_ok hpending hdecode).symm.trans h⟩

/-- Settles O40: the block waits, or runs one instruction, and `settled_of_exec` covers them all. -/
theorem everyStepKeepsTheBufferSettled : Obligations.EveryStepKeepsTheBufferSettled := by
  intro s t hs hstep
  obtain ⟨-, rfl⟩ | ⟨r, rest, i, -, -, hexec⟩ := step_eq_next_cases hstep
  · exact hs
  · exact settled_of_exec (s := { s with pending := rest }) hs hexec

/-- Settles O41: the empty buffer is shorter than four bytes. -/
theorem resetBufferIsSettled : Obligations.ResetBufferIsSettled := settled_iff.mpr (.inl (by decide))

/-- Settles O51: SYNC.RESET is one update of `buf`. -/
theorem syncResetEmptiesTheBuffer : Obligations.SyncResetEmptiesTheBuffer := exec_syncReset

/-- Settles O39: a frame's shape is what the loop looked for, and it holds the bytes of the length field. -/
theorem everyYieldedFrameHasItsShape : Obligations.EveryYieldedFrameHasItsShape := by
  intro s t chunk frames hfeed hout f hf
  have hshape := frameShape_of_mem_of_feedRuns (feedRuns_of_exec_feed hfeed hout) f hf
  exact ⟨hshape, four_le_length_of_frameShape hshape⟩

/-- Settles O42: a FEED leaves a settled buffer, and a length field is at most 65535 (`length_lt_of_settled`). -/
theorem bufferAfterFeedIsBounded : Obligations.BufferAfterFeedIsBounded := by
  intro s t chunk hfeed
  have hsettled := settled_of_exec_of_writesBuf rfl hfeed
  exact ⟨(settled_iff.mp hsettled).imp_left Nat.le_of_lt_succ, Nat.le_of_lt_succ (length_lt_of_settled hsettled)⟩

/-- Settles O43: the loop exits at once on a settled buffer. -/
theorem feedingNothingChangesNothing : Obligations.FeedingNothingChangesNothing := by
  intro s hs
  apply exec_feed_of_feedRuns
  rw [List.append_nil]
  exact feedRuns_of_settled hs

/-! ### Conservation and order (R183) -/

theorem noHeader_nil : NoHeader [] := by simp [NoHeader, HeaderAt]

/-- A header inside a first part is a header of the whole. -/
theorem headerAt_append_iff {as : List Byte} {i : Nat} (h : i + 1 < as.length) (bs : List Byte) :
    HeaderAt (as ++ bs) i ↔ HeaderAt as i := by
  simp only [HeaderAt, List.getElem?_append_left h, List.getElem?_append_left (Nat.lt_of_succ_lt h)]

/-- The second byte of a header lies inside. -/
theorem lt_length_of_headerAt {as : List Byte} {i : Nat} (h : HeaderAt as i) : i + 1 < as.length :=
  (List.getElem?_eq_some_iff.mp h.2).1

theorem headerAt_append_of_headerAt {as : List Byte} {i : Nat} (h : HeaderAt as i) (bs : List Byte) :
    HeaderAt (as ++ bs) i :=
  (headerAt_append_iff (lt_length_of_headerAt h) bs).mpr h

theorem noHeader_of_noHeader_append {as bs : List Byte} (h : NoHeader (as ++ bs)) : NoHeader as :=
  fun i hi => h i (headerAt_append_of_headerAt hi bs)

/-- R175: the bytes before the first header hold none. -/
theorem noHeader_take {buf : List Byte} {i : Nat} (hfirst : ∀ j, j < i → ¬ HeaderAt buf j) :
    NoHeader (buf.take i) := by
  intro j hj
  have hlt := lt_length_of_headerAt hj
  have hwhole := headerAt_append_of_headerAt hj (buf.drop i)
  rw [List.take_append_drop] at hwhole
  exact hfirst j (by rw [List.length_take] at hlt; omega) hwhole

/-- Bytes before the first run of garbage lengthen it. -/
theorem interleave_cons_append {frames gs : List (List Byte)} (h : gs.length = frames.length) (pre g : List Byte) :
    interleave ((pre ++ g) :: gs) frames = pre ++ interleave (g :: gs) frames := by
  match frames, gs, h with
  | [], [], _ => rfl
  | f :: fs, gs, _ => simp [interleave]

/-- R183: the bytes of a run of the loop, in order. The first run of garbage is empty where the buffer begins with a
header, so the bytes dropped before it are a run of their own. -/
theorem exists_garbage_of_feedRuns {buf left : List Byte} {frames : List (List Byte)} (h : FeedRuns buf frames left) :
    ∃ (g : List Byte) (gs : List (List Byte)), gs.length = frames.length ∧
      buf = interleave (g :: gs) frames ++ left ∧ NoHeader g ∧ (∀ g' ∈ gs, NoHeader g') ∧
      (HeaderAt buf 0 → g = []) := by
  induction h with
  | short buf _ => exact ⟨[], [], rfl, rfl, noHeader_nil, by simp, fun _ => rfl⟩
  | stall => exact ⟨[], [], rfl, rfl, noHeader_nil, by simp, fun _ => rfl⟩
  | keepLast buf _ hno hlast =>
    have hsplit : buf = buf.dropLast ++ [0x52#8] := (List.dropLast_append_getLast? _ hlast).symm
    exact ⟨buf.dropLast, [], rfl, hsplit, noHeader_of_noHeader_append (hsplit ▸ hno), by simp,
      fun hat => absurd hat (hno 0)⟩
  | discard buf _ hno _ =>
    exact ⟨buf, [], rfl, (List.append_nil buf).symm, hno, by simp, fun hat => absurd hat (hno 0)⟩
  | dropPrefix buf i frames left _ hat hfirst hpos _ ih =>
    obtain ⟨g, gs, hcount, hbytes, -, hgs, hempty⟩ := ih
    obtain rfl := hempty (by simpa [HeaderAt] using hat)
    refine ⟨buf.take i, gs, hcount, ?_, noHeader_take hfirst, hgs, fun hzero => absurd hzero (hfirst 0 hpos)⟩
    calc buf = buf.take i ++ buf.drop i := (List.take_append_drop i buf).symm
      _ = buf.take i ++ (interleave ([] :: gs) frames ++ left) := by rw [← hbytes]
      _ = interleave ((buf.take i ++ []) :: gs) frames ++ left := by
        rw [interleave_cons_append hcount, List.append_assoc]
      _ = interleave (buf.take i :: gs) frames ++ left := by rw [List.append_nil]
  | extract frame after frames left _ _ ih =>
    obtain ⟨g, gs, hcount, hbytes, hg, hgs, -⟩ := ih
    refine ⟨[], g :: gs, by simp [hcount], ?_, noHeader_nil, List.forall_mem_cons.mpr ⟨hg, hgs⟩, fun _ => rfl⟩
    rw [interleave, List.nil_append, List.append_assoc, ← hbytes]

/-- Settles O38: the decomposition of the run that the FEED made. -/
theorem feedConservesBytesAndOrder : Obligations.FeedConservesBytesAndOrder := by
  intro s t chunk frames hfeed hout
  obtain ⟨g, gs, hcount, hbytes, hg, hgs, -⟩ := exists_garbage_of_feedRuns (feedRuns_of_exec_feed hfeed hout)
  exact ⟨g :: gs, by simp [hcount], hbytes, List.forall_mem_cons.mpr ⟨hg, hgs⟩⟩

/-! ### Resynchronisation (R188) -/

/-- Bytes that do not begin with `0x42` make no pair with the last byte before them. -/
theorem not_headerAt_append {garbage stream : List Byte} (hno : NoHeader garbage) (hhead : stream[0]? ≠ some 0x42#8)
    {i : Nat} (hi : i < garbage.length) : ¬ HeaderAt (garbage ++ stream) i := by
  rintro ⟨hfirst, hsecond⟩
  by_cases hinside : i + 1 < garbage.length
  · exact hno i ((headerAt_append_iff hinside stream).mp ⟨hfirst, hsecond⟩)
  · have hend : i + 1 = garbage.length := by omega
    rw [hend, List.getElem?_append_right le_rfl, Nat.sub_self] at hsecond
    exact hhead hsecond

/-- R188: the garbage before a whole frame is dropped in one iteration, and the frame is cut in the next. -/
theorem feedRuns_garbage_frame {garbage frame : List Byte} (hno : NoHeader garbage) (hframe : FrameShape frame) :
    FeedRuns (garbage ++ frame) [frame] [] := by
  have hcut : FeedRuns frame [frame] [] := by
    simpa using FeedRuns.extract frame [] [] [] hframe (.short [] (by simp))
  by_cases hempty : garbage = []
  · rwa [hempty]
  · obtain ⟨lo, hi, rest, rfl, -⟩ := hframe
    exact .dropPrefix _ garbage.length _ _ (by simp; omega) (by simp [HeaderAt])
      (fun j hj => not_headerAt_append hno (by simp) hj) (List.length_pos_iff.mpr hempty) (by simpa using hcut)

/-- R174: a `0x52` at the end adds no header. -/
theorem noHeader_append_52 {garbage : List Byte} (hno : NoHeader garbage) : NoHeader (garbage ++ [0x52#8]) := by
  intro i hat
  have hlt : i < garbage.length := by simpa using lt_length_of_headerAt hat
  exact not_headerAt_append hno (by simp) hlt hat

/-- R173, R174: garbage that ends in the `0x52` of a header yields nothing, and that byte is kept, with no header
before it. -/
theorem exists_feedRuns_garbage_52 {garbage : List Byte} (hno : NoHeader garbage) :
    ∃ kept, NoHeader kept ∧ FeedRuns (garbage ++ [0x52#8]) [] (kept ++ [0x52#8]) := by
  by_cases hshort : (garbage ++ [0x52#8]).length < 4
  · exact ⟨garbage, hno, .short _ hshort⟩
  · exact ⟨[], noHeader_nil, .keepLast _ (by omega) (noHeader_append_52 hno) (by simp)⟩

/-- Settles O46: `feedRuns_garbage_frame` from the empty buffer. -/
theorem garbageBeforeAFrameIsDropped : Obligations.GarbageBeforeAFrameIsDropped := by
  intro s garbage frame hbuf hno hframe
  rw [exec_feed_of_feedRuns (left := []) (by simpa [hbuf] using feedRuns_garbage_frame hno hframe), ← hbuf]

/-- Settles O47: the first FEED keeps the `0x52` at its end, and the second sees garbage and a whole frame. -/
theorem splitHeaderIsOneHeader : Obligations.SplitHeaderIsOneHeader := by
  intro s garbage rest hbuf hno hframe
  obtain ⟨kept, hkept, hrun⟩ := exists_feedRuns_garbage_52 hno
  refine ⟨_, exec_feed_of_feedRuns (by simpa [hbuf] using hrun), rfl, ?_⟩
  rw [exec_feed_of_feedRuns (left := []) (by simpa using feedRuns_garbage_frame hkept hframe), ← hbuf]

/-! ### The frames of a stream (R187) -/

/-- The frames that the loop yields from a buffer. -/
def framesOf (buf : List Byte) : List (List Byte) := (feedBytes buf []).1

/-- R172: of the old buffer and the chunk only the whole counts. -/
theorem feedBytes_fst (buf chunk : List Byte) : (feedBytes buf chunk).1 = framesOf (buf ++ chunk) := by
  rw [framesOf, ← feedBytes_append]

theorem framesOf_eq_of_feedRuns {buf left : List Byte} {frames : List (List Byte)} (h : FeedRuns buf frames left) :
    framesOf buf = frames := by
  rw [framesOf, feedBytes_eq_of_feedRuns h]

theorem framesOf_of_settled {buf : List Byte} (h : settled buf = true) : framesOf buf = [] :=
  framesOf_eq_of_feedRuns (feedRuns_of_settled h)

theorem framesOf_of_short {buf : List Byte} (h : buf.length < 4) : framesOf buf = [] :=
  framesOf_eq_of_feedRuns (.short buf h)

/-- R177: a whole frame at the head is the first one yielded. -/
theorem framesOf_frame_append {frame : List Byte} (h : FrameShape frame) (after : List Byte) :
    framesOf (frame ++ after) = frame :: framesOf after :=
  framesOf_eq_of_feedRuns (.extract _ _ _ _ h (feedRuns_feedBytes after))

theorem framesOf_of_noHeader {buf : List Byte} (hno : NoHeader buf) : framesOf buf = [] := by
  by_cases hshort : buf.length < 4
  · exact framesOf_of_short hshort
  · by_cases hlast : buf.getLast? = some 0x52#8
    · exact framesOf_eq_of_feedRuns (.keepLast buf (by omega) hno hlast)
    · exact framesOf_eq_of_feedRuns (.discard buf (by omega) hno hlast)

/-- R175: what stands before the first header changes no frame, also where the buffer is too short to be scanned. -/
theorem framesOf_eq_drop {buf : List Byte} {i : Nat} (h : findHeader buf = some i) :
    framesOf buf = framesOf (buf.drop i) := by
  obtain ⟨hat, hfirst⟩ := findHeader_eq_some_iff_headerAt.mp h
  by_cases hshort : buf.length < 4
  · rw [framesOf_of_short hshort, framesOf_of_short (by simp; omega)]
  · obtain rfl | hpos := Nat.eq_zero_or_pos i
    · rfl
    · exact framesOf_eq_of_feedRuns
        (.dropPrefix buf i _ _ (Nat.not_lt.mp hshort) hat hfirst hpos (feedRuns_feedBytes (buf.drop i)))

/-- R173: the scan past a byte that begins no header. -/
theorem findHeader_cons {b : Byte} {rest : List Byte} (h : ¬ HeaderAt (b :: rest) 0) :
    findHeader (b :: rest) = (findHeader rest).map (· + 1) := by
  cases rest with
  | nil => rfl
  | cons c rest => exact if_neg (by simpa [HeaderAt, Config.hdr0, Config.hdr1] using h)

/-- A byte that begins no header changes no frame. -/
theorem framesOf_cons {b : Byte} {rest : List Byte} (h : ¬ HeaderAt (b :: rest) 0) :
    framesOf (b :: rest) = framesOf rest := by
  have hscan := findHeader_cons h
  cases hrest : findHeader rest with
  | none =>
    rw [hrest] at hscan
    rw [framesOf_of_noHeader (findHeader_eq_none_iff_noHeader.mp hscan),
      framesOf_of_noHeader (findHeader_eq_none_iff_noHeader.mp hrest)]
  | some i =>
    rw [hrest] at hscan
    rw [framesOf_eq_drop hscan, framesOf_eq_drop hrest, List.drop_succ_cons]

/-- Bytes of which none begins a header change no frame. -/
theorem framesOf_append_of_not_headerAt {garbage stream : List Byte}
    (h : ∀ i, i < garbage.length → ¬ HeaderAt (garbage ++ stream) i) :
    framesOf (garbage ++ stream) = framesOf stream := by
  induction garbage with
  | nil => rfl
  | cons b garbage ih =>
    calc framesOf (b :: (garbage ++ stream)) = framesOf (garbage ++ stream) := framesOf_cons (h 0 (by simp))
      _ = framesOf stream := ih fun i hi => by simpa [HeaderAt] using h (i + 1) (by simpa using hi)

/-- R187: what a run of the loop left stands for all the bytes it read, whatever follows. -/
theorem framesOf_append_of_feedRuns {buf left : List Byte} {frames : List (List Byte)} (h : FeedRuns buf frames left)
    (b : List Byte) : framesOf (buf ++ b) = frames ++ framesOf (left ++ b) := by
  induction h with
  | short | stall => rfl
  | keepLast buf _ hno hlast =>
    have hsplit : buf = buf.dropLast ++ [0x52#8] := (List.dropLast_append_getLast? _ hlast).symm
    rw [hsplit, List.append_assoc]
    refine framesOf_append_of_not_headerAt fun i hi => ?_
    rw [← List.append_assoc, ← hsplit, headerAt_append_iff (by rw [List.length_dropLast] at hi; omega)]
    exact hno i
  | discard buf _ hno hlast =>
    refine framesOf_append_of_not_headerAt fun i hi hat => ?_
    by_cases hinside : i + 1 < buf.length
    · exact hno i ((headerAt_append_iff hinside b).mp hat)
    · have hend : buf.length - 1 = i := by omega
      rw [List.getLast?_eq_getElem?, hend, ← List.getElem?_append_left hi (l₂ := b)] at hlast
      exact hlast hat.1
  | dropPrefix buf i frames left _ hat hfirst _ _ ih =>
    have hlt := lt_length_of_headerAt hat
    rw [← ih]
    conv_lhs => rw [← List.take_append_drop i buf, List.append_assoc]
    refine framesOf_append_of_not_headerAt fun j hj => ?_
    rw [List.length_take] at hj
    rw [← List.append_assoc, List.take_append_drop, headerAt_append_iff (by omega)]
    exact hfirst j (by omega)
  | extract frame after frames left hshape _ ih =>
    rw [List.append_assoc, framesOf_frame_append hshape, ih, List.cons_append]

/-- R187: FEED of two chunks in one or one after the other. -/
theorem feedBytes_append_fst (buf a b : List Byte) :
    (feedBytes buf (a ++ b)).1 = (feedBytes buf a).1 ++ (feedBytes (feedBytes buf a).2 b).1 := by
  have hrun := feedRuns_feedBytes (buf ++ a)
  rw [← feedBytes_append] at hrun
  rw [feedBytes_fst, ← List.append_assoc, framesOf_append_of_feedRuns hrun, ← feedBytes_fst]

/-- R187: by induction over the chunks; a FEED leaves a settled buffer, so the premise holds again for the rest. -/
theorem feedChunks_fst {buf : List Byte} (h : settled buf = true) (chunks : List (List Byte)) :
    (feedChunks buf chunks).1 = (feedBytes buf chunks.flatten).1 := by
  induction chunks generalizing buf with
  | nil => rw [List.flatten_nil, feedBytes_fst, List.append_nil, framesOf_of_settled h, feedChunks]
  | cons c cs ih => rw [feedChunks, ih (settled_feedBytes buf c), List.flatten_cons, feedBytes_append_fst]

/-- Settles O44: the three FEEDs are `feedBytes`, and `feedBytes_append_fst` relates them. -/
theorem framesDoNotDependOnTheCut : Obligations.FramesDoNotDependOnTheCut := by
  intro s s₁ s₂ t a b fs fs₁ fs₂ ha hfs₁ hb hfs₂ hab hfs
  cases (exec_feed a s).symm.trans ha
  cases (exec_feed b _).symm.trans hb
  cases (exec_feed (a ++ b) s).symm.trans hab
  cases hfs₁
  cases hfs₂
  cases hfs
  exact feedBytes_append_fst s.buf a b

/-- Settles O45: `feedChunks_fst`. -/
theorem framesDependOnTheStreamOnly : Obligations.FramesDependOnTheStreamOnly :=
  fun _ chunks h => feedChunks_fst h chunks

/-! ### The byte-serial detector (R191) -/

/-- What the detector yields once the bytes `stored` of a frame of `size` bytes have arrived, over the rest of the
stream. -/
def Detector.framesFromStore (stored : List Byte) (size : Nat) (stream : List Byte) : List (List Byte) :=
  (Detector.store stored size).2.toList ++ ((Detector.store stored size).1.run stream).1

theorem Detector.framesFromStore_of_length_eq {stored : List Byte} {size : Nat} (h : stored.length = size)
    (stream : List Byte) :
    Detector.framesFromStore stored size stream = stored :: (Detector.hunt.run stream).1 := by
  simp [framesFromStore, store, h]

theorem Detector.framesFromStore_nil {stored : List Byte} {size : Nat} (h : stored.length ≠ size) :
    Detector.framesFromStore stored size [] = [] := by
  simp [framesFromStore, store, h, run]

theorem Detector.framesFromStore_cons {stored : List Byte} {size : Nat} (h : stored.length ≠ size) (b : Byte)
    (stream : List Byte) :
    Detector.framesFromStore stored size (b :: stream) = Detector.framesFromStore (stored ++ [b]) size stream := by
  simp [framesFromStore, store, h, run, next]

/-- R191: the bytes that complete the frame end it, and the detector hunts on. -/
theorem Detector.framesFromStore_append {stored missing : List Byte} {size : Nat}
    (h : stored.length + missing.length = size) (stream : List Byte) :
    Detector.framesFromStore stored size (missing ++ stream) =
      (stored ++ missing) :: (Detector.hunt.run stream).1 := by
  induction missing generalizing stored with
  | nil => rw [List.nil_append, List.append_nil, framesFromStore_of_length_eq h]
  | cons b missing ih =>
    rw [List.length_cons] at h
    rw [List.cons_append, framesFromStore_cons (by omega), ih (by simp; omega), List.append_assoc,
      List.singleton_append]

/-- R191: a frame of which a byte is missing is not yielded. -/
theorem Detector.framesFromStore_of_length_lt {stored stream : List Byte} {size : Nat}
    (h : stored.length + stream.length < size) : Detector.framesFromStore stored size stream = [] := by
  induction stream generalizing stored with
  | nil => exact framesFromStore_nil (by simpa using h.ne)
  | cons b stream ih =>
    rw [List.length_cons] at h
    rw [framesFromStore_cons (by omega), ih (by simp; omega)]

/-- R191: the four bytes up to the length field, as the detector stores them. -/
theorem Detector.run_hunt_header (lo hi : Byte) (stream : List Byte) :
    (Detector.hunt.run (0x52#8 :: 0x42#8 :: lo :: hi :: stream)).1 =
      Detector.framesFromStore [0x52#8, 0x42#8, lo, hi] ((u16 lo hi).toNat + 4) stream := by
  rw [← packetSize_cons lo hi []]
  rfl

/-- R191: in GOT52 every byte but `0x42` is taken as in HUNT. -/
theorem Detector.next_got52 {b : Byte} (h : b ≠ 0x42#8) : Detector.got52.next b = Detector.hunt.next b := by
  have hnot : b ≠ Config.hdr1 := h
  simp only [next, hnot, if_false]
  split <;> rfl

/-- R191: a byte that begins no header leaves nothing behind. -/
theorem Detector.run_hunt_cons {b : Byte} {stream : List Byte} (h : ¬ HeaderAt (b :: stream) 0) :
    (Detector.hunt.run (b :: stream)).1 = (Detector.hunt.run stream).1 := by
  by_cases hb : b = 0x52#8
  · subst hb
    have hgot : (Detector.hunt.run (0x52#8 :: stream)).1 = (Detector.got52.run stream).1 := rfl
    rw [hgot]
    cases stream with
    | nil => rfl
    | cons c stream => rw [run, run, next_got52 (by simpa [HeaderAt] using h)]
  · have hstay : Detector.hunt.next b = (.hunt, none) := by simp [next, Config.hdr0, hb]
    simp [run, hstay]

/-- R191: over a whole frame, from HUNT to HUNT. -/
theorem Detector.run_hunt_frame_append {frame : List Byte} (h : FrameShape frame) (after : List Byte) :
    (Detector.hunt.run (frame ++ after)).1 = frame :: (Detector.hunt.run after).1 := by
  obtain ⟨lo, hi, rest, rfl, hlen⟩ := h
  exact (run_hunt_header lo hi (rest ++ after)).trans (framesFromStore_append (by simp at hlen ⊢; omega) after)

/-- R191: a header with less than a whole length field after it starts a frame that does not end. -/
theorem Detector.run_hunt_of_short {stream : List Byte} (hat : HeaderAt stream 0) (hshort : stream.length < 4) :
    (Detector.hunt.run stream).1 = [] := by
  obtain ⟨h0, h1⟩ := hat
  match stream, hshort with
  | [a, b], _ | [a, b, lo], _ =>
    cases h0
    cases h1
    rfl

/-- R175 to R177: a stream that begins with a header is too short to be scanned, stalls, or begins with a whole
frame. -/
theorem headerAt_zero_cases {stream : List Byte} (hat : HeaderAt stream 0) :
    stream.length < 4 ∨
    (∃ lo hi rest, stream = 0x52#8 :: 0x42#8 :: lo :: hi :: rest ∧ stream.length < (u16 lo hi).toNat + 4) ∨
    ∃ frame after, stream = frame ++ after ∧ FrameShape frame := by
  obtain ⟨frames, left, hrun⟩ : ∃ frames left, FeedRuns stream frames left := ⟨_, _, feedRuns_feedBytes stream⟩
  cases hrun with
  | short _ hshort => exact .inl hshort
  | keepLast _ _ hno | discard _ _ hno => exact absurd hat (hno 0)
  | dropPrefix _ i _ _ _ _ hfirst hpos => exact absurd hat (hfirst 0 hpos)
  | stall lo hi rest hlen => exact .inr (.inl ⟨lo, hi, rest, rfl, hlen⟩)
  | extract frame after _ _ hshape => exact .inr (.inr ⟨frame, after, rfl, hshape⟩)

/-- R191: by induction on the length, the detector and FEED pass the same bytes: one that begins no header, a whole
frame, or a header whose frame does not end. -/
theorem Detector.run_hunt_eq_framesOf (stream : List Byte) : (Detector.hunt.run stream).1 = framesOf stream := by
  induction hn : stream.length using Nat.strong_induction_on generalizing stream with
  | _ n ih =>
    subst hn
    by_cases hat : HeaderAt stream 0
    · obtain hshort | ⟨lo, hi, rest, rfl, hlen⟩ | ⟨frame, after, rfl, hshape⟩ := headerAt_zero_cases hat
      · rw [run_hunt_of_short hat hshort, framesOf_of_short hshort]
      · rw [run_hunt_header, framesFromStore_of_length_lt (by simp at hlen ⊢; omega),
          framesOf_eq_of_feedRuns (.stall lo hi rest hlen)]
      · have hfour := four_le_length_of_frameShape hshape
        rw [run_hunt_frame_append hshape, framesOf_frame_append hshape, ih after.length (by simp; omega) after rfl]
    · cases stream with
      | nil => rw [framesOf_of_short (by simp), run]
      | cons b rest => rw [run_hunt_cons hat, framesOf_cons hat, ih rest.length (by simp) rest rfl]

/-- Settles O52: `Detector.run_hunt_eq_framesOf`. -/
theorem byteSerialDetectorYieldsTheSameFrames : Obligations.ByteSerialDetectorYieldsTheSameFrames := by
  intro stream
  rw [Detector.run_hunt_eq_framesOf, feedBytes_fst, List.nil_append]

/-! ### The outcomes of an RX (R180, R184) -/

/-- R180: the outcomes other than those of steps 1 to 3 of PARSE. -/
def NotStructural (o : ParseOutcome) : Prop :=
  (∃ r, o = .decoded (.sensor r)) ∨ (∃ v, o = .decoded (.status v)) ∨ o = .error .checksumMismatch ∨
    (∃ a, o = .error (.unknownAddress a)) ∨ ∃ off n, o = .error (.outOfRange (.fieldOutOfRange off n))

theorem notStructural_outOfRange (f : Fault) : NotStructural (.error (.outOfRange f)) := by
  cases f with
  | fieldOutOfRange off n => exact .inr (.inr (.inr (.inr ⟨off, n, rfl⟩)))

theorem notStructural_ofReads_sensor (x : Except Fault SensorReading) : NotStructural (.ofReads (x.map .sensor)) := by
  cases x with
  | ok r => exact .inl ⟨r, rfl⟩
  | error f => exact notStructural_outOfRange f

theorem notStructural_ofReads_status (x : Except Fault Byte) : NotStructural (.ofReads (x.map .status)) := by
  cases x with
  | ok v => exact .inr (.inl ⟨v, rfl⟩)
  | error f => exact notStructural_outOfRange f

/-- R149, R160 to R162: every arm of the dispatch. -/
theorem notStructural_dispatchAddress (bs : List Byte) : NotStructural (dispatchAddress bs) := by
  by_cases hlen : 7 ≤ bs.length
  · rw [dispatchAddress_eq hlen]
    split_ifs
    · exact notStructural_ofReads_sensor _
    · exact notStructural_ofReads_status _
    · exact .inr (.inr (.inr (.inl ⟨_, rfl⟩)))
  · rw [dispatchAddress_of_short (Nat.lt_of_not_le hlen)]
    exact notStructural_outOfRange _

/-- R184: steps 1 to 3 of PARSE pass on a frame. -/
theorem notStructural_parseFrame {f : List Byte} (h : FrameShape f) (r : Word) : NotStructural (parseFrame r f).2 := by
  rw [parseFrame_of_frameShape r h]
  split_ifs
  · exact notStructural_dispatchAddress f
  · exact .inr (.inr (.inl rfl))

theorem notStructural_of_mem_parseAll {frames : List (List Byte)} (h : ∀ f ∈ frames, FrameShape f) (r : Word) :
    ∀ o ∈ (parseAll r frames).2, NotStructural o := by
  induction frames generalizing r with
  | nil => simp [parseAll]
  | cons f fs ih =>
    obtain ⟨hf, hfs⟩ := List.forall_mem_cons.mp h
    exact List.forall_mem_cons.mpr ⟨notStructural_parseFrame hf r, ih hfs _⟩

/-- Settles O50: RX parses what FEED yielded, and every such frame has its shape. -/
theorem rxNeverReportsAStructuralError : Obligations.RxNeverReportsAStructuralError := by
  intro s t chunk outcomes hrx hout
  cases (exec_rx chunk s).symm.trans hrx
  cases hout
  rw [feedBytes_append]
  exact notStructural_of_mem_parseAll (frameShape_of_mem_of_feedRuns (feedRuns_feedBytes _)) s.reg

end Sys2Proof.Machine

/-! ### Where PARSE ends in FieldOutOfRange (R201) -/

namespace Sys2Proof.Machine

open Reference

section

variable {bs : List Byte} {f : Fault}

/-- R145 to R147: no read is made before step 4. -/
theorem shapeError_ne_outOfRange (bs : List Byte) (f : Fault) : shapeError bs ≠ some (.outOfRange f) := by
  obtain ⟨-, h⟩ | ⟨-, -, h⟩ | ⟨-, -, -, h⟩ | ⟨-, -, -, h⟩ := shapeError_cases bs <;> simp [h]

/-- R201: PARSE ends in FieldOutOfRange only where the four checks passed and the dispatch did. -/
theorem outOfRange_dispatchAddress_of_parseFrame {r : Word} (h : (parseFrame r bs).2 = .error (.outOfRange f)) :
    FrameShape bs ∧ ChecksumRight bs ∧ dispatchAddress bs = .error (.outOfRange f) := by
  obtain ⟨e, he, hparse⟩ | ⟨-, -, hparse⟩ | ⟨hshape, hok, hparse⟩ := parseFrame_cases r bs <;> rw [hparse] at h
  · cases h
    exact absurd he (shapeError_ne_outOfRange bs f)
  · cases h
  · have hframe := shapeError_eq_none_iff.mp hshape
    obtain ⟨-, hright⟩ := verifyChecksum_of_frameShape hframe
    exact ⟨hframe, hright.mp hok, h⟩

/-- R64: the three known addresses by their bytes, low byte first. -/
theorem u16_mem_knownAddresses_iff {lo hi : Byte} :
    u16 lo hi ∈ [Config.addrLatest, Config.addrLed, Config.addrFlash] ↔
      (lo = 0x22#8 ∧ hi = 0x50#8) ∨ (lo = 0x11#8 ∧ hi = 0x51#8) ∨ (lo = 0x03#8 ∧ hi = 0x54#8) := by
  have hlatest : Config.addrLatest = u16 0x22#8 0x50#8 := rfl
  have hled : Config.addrLed = u16 0x11#8 0x51#8 := rfl
  have hflash : Config.addrFlash = u16 0x03#8 0x54#8 := rfl
  simp only [hlatest, hled, hflash, List.mem_cons, List.not_mem_nil, or_false, u16_inj]

/-- R160, R161: of the frames that pass the four checks and have a whole address field, the dispatch ends in
FieldOutOfRange only on a sensor frame that is too short for its ten reads. -/
theorem short_sensor_of_dispatchAddress_outOfRange (hshape : FrameShape bs) (hright : ChecksumRight bs)
    (hseven : 7 ≤ bs.length) (h : dispatchAddress bs = .error (.outOfRange f)) :
    bs.length < 28 ∧ byteAt bs 5 = 0x22#8 ∧ byteAt bs 6 = 0x50#8 := by
  by_cases haddr : u16 (byteAt bs 5) (byteAt bs 6) ∈ [Config.addrLatest, Config.addrLed, Config.addrFlash]
  · obtain ⟨h5, h6⟩ | hstatus := u16_mem_knownAddresses_iff.mp haddr
    · refine ⟨?_, h5, h6⟩
      by_contra hlong
      rw [dispatchAddress_sensor h5 h6, sensorReading_of_long (Nat.le_of_not_lt hlong)] at h
      cases h
    · rw [dispatchAddress_status (eight_le_length_of_status hshape hright hstatus) hstatus] at h
      cases h
  · rw [dispatchAddress_unknown hseven haddr] at h
    cases h

end

/-- Settles O33: below 7 bytes only one frame passes the checks (`eq_of_short_frame`); from 7 on the address decides. -/
theorem fieldOutOfRangeIsReachedByTheseFramesOnly : Obligations.FieldOutOfRangeIsReachedByTheseFramesOnly := by
  intro s t bs f hparse hout
  cases (exec_parse s bs).symm.trans hparse
  obtain ⟨hshape, hright, hdispatch⟩ := outOfRange_dispatchAddress_of_parseFrame (Result.parsed.inj hout)
  obtain hshort | hseven := Nat.lt_or_ge bs.length 7
  · exact .inl (eq_of_short_frame hshape hright hshort)
  · exact .inr (short_sensor_of_dispatchAddress_outOfRange hshape hright hseven hdispatch)

/-! ### RX as FEED and then PARSE (R180, R204) -/

/-- R180: the loop of RX over the frames is a run of PARSE operations, each on the state the one before left. -/
theorem parsedInOrder_parseAll (s : State) (frames : List (List Byte)) :
    ParsedInOrder s frames (parseAll s.reg frames).2 (parseAll s.reg frames).1 := by
  induction frames generalizing s with
  | nil => exact ⟨rfl, rfl⟩
  | cons f fs ih => exact ⟨_, _, _, exec_parse s f, rfl, rfl, ih _⟩

/-- Settles O49: FEED leaves `reg` alone, so its first PARSE starts from the register RX started from. -/
theorem rxIsFeedThenParseOfEachFrame : Obligations.RxIsFeedThenParseOfEachFrame :=
  fun s chunk => ⟨_, _, _, _, exec_feed chunk s, rfl, parsedInOrder_parseAll _ _, exec_rx chunk s⟩

/-! ### Completion and refusal (R202, R212) -/

/-- R118: an UNPK operation completes, with a value or with the recorded fault. -/
theorem unpack_completes (bs : List Byte) (off n : Nat) (form : Nat → Result) (s : State) :
    ∃ t, unpack bs off n form s = .next t ∧ t.pending = s.pending := by
  obtain ⟨-, h⟩ | ⟨-, h⟩ := unpack_cases bs off n form s <;> exact ⟨_, h, rfl⟩

/-- R97, R134, R212: an instruction completes and leaves the queue alone, or it fails its check and is refused. Three
instructions have a check. -/
theorem exec_completes_or_refused (i : Instr) (s : State) :
    (i.wf = true ∧ ∃ t, exec i s = .next t ∧ t.pending = s.pending) ∨
      (i.wf = false ∧ ∃ why, exec i s = .refused why) := by
  cases i with
  | crcVerify bs =>
    by_cases hshort : bs.length < 2
    · exact .inr ⟨decide_eq_false (Nat.not_le_of_lt hshort), _, exec_crcVerify_of_short hshort s⟩
    · exact .inl ⟨decide_eq_true (Nat.le_of_not_lt hshort), _, exec_crcVerify_of_long hshort s, rfl⟩
  | bldSetled red green blue =>
    by_cases hchannels : red < 256 ∧ green < 256 ∧ blue < 256
    · exact .inl ⟨(channelsOk_iff red green blue).mpr hchannels, _, exec_bldSetled_of_channels hchannels s, rfl⟩
    · exact .inr ⟨Bool.eq_false_iff.mpr (mt (channelsOk_iff red green blue).mp hchannels), _,
        exec_bldSetled_of_not_channels hchannels s⟩
  | reqSetled red green blue lo hi =>
    by_cases hchecksum : u16 lo hi = crc16 (setLedTwelve red green blue)
    · exact .inl ⟨setLedChecksumOk_iff.mpr hchecksum, _, exec_reqSetled_of_checksum hchecksum s, rfl⟩
    · exact .inr ⟨Bool.eq_false_iff.mpr (mt setLedChecksumOk_iff.mp hchecksum), _,
        exec_reqSetled_of_no_checksum hchecksum s⟩
  | unpkU8 | unpkU16 | unpkI16 | unpkI32 => exact .inl ⟨rfl, unpack_completes _ _ _ _ s⟩
  | bldRdlatest | bldRdflash | reqRdlatest | reqRdflash => exact .inl ⟨rfl, _, buildFrame_eq _ s, rfl⟩
  | crcInit | crcByte | crcRead | crcSum | packU8 | packU16 | parse | feed | rx | syncReset | rspLatest | rspLed
  | rspFlash => exact .inl ⟨rfl, _, rfl, rfl⟩

/-- Settles O58: the two ends of `exec_completes_or_refused`, which exclude each other by the check. -/
theorem everyWellFormedInstructionCompletes : Obligations.EveryWellFormedInstructionCompletes := by
  intro i s
  obtain ⟨hwf, hnext⟩ | ⟨hwf, hrefused⟩ := exec_completes_or_refused i s
  · exact ⟨fun _ => hnext, fun hnot => absurd hwf (by simp [hnot])⟩
  · exact ⟨fun hwell => absurd hwell (by simp [hwf]), fun _ => hrefused⟩

/-! ### The first fault that a result records (R201, R202) -/

theorem ParseOutcome.fault?_eq_some_iff {o : ParseOutcome} {f : Fault} :
    o.fault? = some f ↔ o = .error (.outOfRange f) := by
  cases o with
  | decoded => simp [ParseOutcome.fault?]
  | error e => cases e <;> simp [ParseOutcome.fault?]

theorem ParseOutcome.fault?_eq_none_iff {o : ParseOutcome} :
    o.fault? = none ↔ ∀ g, o ≠ .error (.outOfRange g) := by
  simp only [Option.eq_none_iff_forall_ne_some, ne_eq, ParseOutcome.fault?_eq_some_iff]

/-- R16, R201: the list of recorded faults begins with the one that stands first in the result. -/
theorem recordsFirst_iff {out : Result} {f : Fault} : RecordsFirst out f ↔ out.faults.head? = some f := by
  cases out with
  | fault g => simp [RecordsFirst, Result.faults]
  | parsed o => simp [RecordsFirst, Result.faults, ParseOutcome.fault?_eq_some_iff]
  | outcomes os =>
    simp [RecordsFirst, Result.faults, List.head?_filterMap, List.findSome?_eq_some_iff,
      ParseOutcome.fault?_eq_some_iff, ParseOutcome.fault?_eq_none_iff]
  | none | u8 | u16 | i16 | i32 | verdict | bytes | frames => simp [RecordsFirst, Result.faults]

/-! ### The strict machine -/

section

variable {s t : State}

/-- R202: no step of the machine is a fault; it records them. -/
theorem step_next_or_refused (s : State) : (∃ t, step s = .next t) ∨ ∃ why, step s = .refused why := by
  cases hpending : s.pending with
  | nil => exact .inl ⟨s, step_of_pending_nil hpending⟩
  | cons r rest =>
    cases hdecode : decode r with
    | error e => exact .inr ⟨_, step_of_decode_error hpending hdecode⟩
    | ok i =>
      rw [step_of_decode_ok hpending hdecode]
      exact (exec_completes_or_refused i _).imp (fun ⟨_, t, hnext, _⟩ => ⟨t, hnext⟩) And.right

theorem stepStrict_of_pending_nil (h : s.pending = []) : stepStrict s = step s := by
  simp only [stepStrict, h]

/-- R201: with an operation to run, the strict machine looks at what the step of the machine recorded. -/
theorem stepStrict_of_no_fault (hpending : s.pending ≠ []) (hstep : step s = .next t) (hout : t.out.faults = []) :
    stepStrict s = .next t := by
  obtain ⟨r, rest, hcons⟩ := List.exists_cons_of_ne_nil hpending
  simp only [stepStrict, hcons, hstep, hout]

/-- R16: it stops with the first fault recorded. -/
theorem stepStrict_of_recordsFirst {f : Fault} (hpending : s.pending ≠ []) (hstep : step s = .next t)
    (hout : RecordsFirst t.out f) : stepStrict s = .fault f := by
  obtain ⟨r, rest, hcons⟩ := List.exists_cons_of_ne_nil hpending
  obtain ⟨others, hfaults⟩ := List.head?_eq_some_iff.mp (recordsFirst_iff.mp hout)
  simp only [stepStrict, hcons, hstep, hfaults]

theorem stepStrict_of_refused {why : Refusal} (hstep : step s = .refused why) : stepStrict s = .refused why := by
  cases hpending : s.pending with
  | nil => rw [stepStrict_of_pending_nil hpending, hstep]
  | cons r rest => simp only [stepStrict, hpending, hstep]

/-- Everything a step of the strict machine can do: what the machine does where no operation has run or none of its
faults is recorded, the first recorded fault, or the machine's refusal. -/
theorem stepStrict_cases (s : State) :
    (∃ t, step s = .next t ∧ (s.pending = [] ∨ t.out.faults = []) ∧ stepStrict s = .next t) ∨
    (∃ t f, step s = .next t ∧ s.pending ≠ [] ∧ RecordsFirst t.out f ∧ stepStrict s = .fault f) ∨
    (∃ why, step s = .refused why ∧ stepStrict s = .refused why) := by
  obtain ⟨t, hstep⟩ | ⟨why, hstep⟩ := step_next_or_refused s
  · by_cases hpending : s.pending = []
    · exact .inl ⟨t, hstep, .inl hpending, (stepStrict_of_pending_nil hpending).trans hstep⟩
    · cases hfaults : t.out.faults with
      | nil => exact .inl ⟨t, hstep, .inr hfaults, stepStrict_of_no_fault hpending hstep hfaults⟩
      | cons f others =>
        have hfirst : RecordsFirst t.out f := recordsFirst_iff.mpr (by rw [hfaults, List.head?_cons])
        exact .inr (.inl ⟨t, f, hstep, hpending, hfirst, stepStrict_of_recordsFirst hpending hstep hfirst⟩)
  · exact .inr (.inr ⟨why, hstep, stepStrict_of_refused hstep⟩)

/-- R16: a result that records a first fault records a fault. -/
theorem faults_ne_nil_of_recordsFirst {out : Result} {f : Fault} (h : RecordsFirst out f) : out.faults ≠ [] := by
  intro hnil
  simp [recordsFirst_iff, hnil] at h

theorem stepStrict_eq_next_iff :
    stepStrict s = .next t ↔ step s = .next t ∧ (s.pending = [] ∨ t.out.faults = []) := by
  obtain ⟨u, hstep, hclean, hstrict⟩ | ⟨u, f, hstep, hpending, hfirst, hstrict⟩ | ⟨why, hstep, hstrict⟩ :=
    stepStrict_cases s <;> rw [hstrict, hstep]
  · constructor
    · rintro ⟨⟩
      exact ⟨rfl, hclean⟩
    · exact And.left
  · constructor
    · rintro ⟨⟩
    · rintro ⟨⟨⟩, hclean⟩
      exact absurd hclean (not_or.mpr ⟨hpending, faults_ne_nil_of_recordsFirst hfirst⟩)
  · simp

theorem stepStrict_eq_fault_iff {f : Fault} :
    stepStrict s = .fault f ↔ s.pending ≠ [] ∧ ∃ t, step s = .next t ∧ RecordsFirst t.out f := by
  refine ⟨fun h => ?_, fun ⟨hpending, t, hstep, hfirst⟩ => stepStrict_of_recordsFirst hpending hstep hfirst⟩
  obtain ⟨u, -, -, hstrict⟩ | ⟨u, g, hstep, hpending, hfirst, hstrict⟩ | ⟨why, -, hstrict⟩ := stepStrict_cases s <;>
    cases hstrict.symm.trans h
  exact ⟨hpending, u, hstep, hfirst⟩

theorem stepStrict_eq_refused_iff {why : Refusal} : stepStrict s = .refused why ↔ step s = .refused why := by
  refine ⟨fun h => ?_, stepStrict_of_refused⟩
  obtain ⟨u, -, -, hstrict⟩ | ⟨u, f, -, -, -, hstrict⟩ | ⟨why', hstep, hstrict⟩ := stepStrict_cases s <;>
    cases hstrict.symm.trans h
  exact hstep

end

/-- R75, R112 to R115: the four UNPK codes with their operands are one operation, of 1, 2, 2 and 4 bytes. -/
theorem decode_unpack {code : Byte} {n : Nat} (h : (code, n) ∈ [(0x10#8, 1), (0x11#8, 2), (0x12#8, 2), (0x13#8, 4)])
    (bs : List Byte) (off : Nat) :
    ∃ i form, decode (.op code [.bytes bs, .nat off]) = .ok i ∧ exec i = unpack bs off n form := by
  simp only [List.mem_cons, Prod.mk.injEq, List.not_mem_nil, or_false] at h
  obtain ⟨rfl, rfl⟩ | ⟨rfl, rfl⟩ | ⟨rfl, rfl⟩ | ⟨rfl, rfl⟩ := h
  · exact ⟨_, _, decode_encode (.unpkU8 bs off), rfl⟩
  · exact ⟨_, _, decode_encode (.unpkU16 bs off), rfl⟩
  · exact ⟨_, _, decode_encode (.unpkI16 bs off), rfl⟩
  · exact ⟨_, _, decode_encode (.unpkI32 bs off), rfl⟩

/-- R118: an UNPK request that reads past the end stops the strict machine with the fault that names its read. -/
theorem stepStrict_unpack_past_end {s : State} {code : Byte} {n off : Nat} {bs : List Byte} {rest : List Request}
    (hcode : (code, n) ∈ [(0x10#8, 1), (0x11#8, 2), (0x12#8, 2), (0x13#8, 4)])
    (hpending : s.pending = .op code [.bytes bs, .nat off] :: rest) (hpast : bs.length < off + n) :
    stepStrict s = .fault (.fieldOutOfRange off n) := by
  obtain ⟨i, form, hdecode, hexec⟩ := decode_unpack hcode bs off
  have hstep := (step_of_decode_ok hpending hdecode).trans ((congrFun hexec _).trans (unpack_past_end hpast form _))
  exact stepStrict_of_recordsFirst (by simp [hpending]) hstep rfl

/-- One step of a run that goes on. -/
theorem run_succ_of_step (M : Host.Core) {k : Nat} {s u : M.State} (h : M.step s = .next u) :
    M.run (k + 1) s = M.run k u := by
  simp only [Host.Core.run, h]

/-- A run of the strict machine that ends in a state is a run of the machine: each of its steps is one. -/
theorem run_of_runStrict {k : Nat} {s t : State} (h : runStrict k s = .next t) :
    Sys2Proof.core.run k s = .next t := by
  induction k generalizing s with
  | zero => exact h
  | succ k ih =>
    rw [runStrict] at h
    split at h
    next u hstrict =>
      obtain ⟨hstep, -⟩ := stepStrict_eq_next_iff.mp hstrict
      exact (run_succ_of_step Sys2Proof.core hstep).trans (ih h)
    · cases h
    · cases h

/-- Settles O60: the three ends of a strict step, the UNPK requests, and the runs, clause by clause. -/
theorem strictMachineStopsAtTheFirstRecordedFault : Obligations.StrictMachineStopsAtTheFirstRecordedFault :=
  ⟨fun _ _ => stepStrict_eq_next_iff, fun _ _ => stepStrict_eq_fault_iff, fun _ _ => stepStrict_eq_refused_iff,
    fun _ _ _ _ _ _ => stepStrict_unpack_past_end, fun _ _ _ => run_of_runStrict⟩

end Sys2Proof.Machine
